-- ==== Sys2Proof/Word.lean ====
section
/-!
DEFINITION. The word types of the core and their plainest arithmetic
(spec/00_scope.md R5: XLEN 64, ILEN 32; R6: bit numbering, signed and unsigned readings).
-/

namespace Sys2Proof

/-- A register value: 64 bits (00_scope.md R5, XLEN). -/
abbrev Word := BitVec 64

/-- An instruction word: 32 bits (00_scope.md R5, ILEN). -/
abbrev IWord := BitVec 32

/-- One byte of data memory. -/
abbrev Byte := BitVec 8

/-- The index of a register in a bank of 32 (10_state.md R20, R28). -/
abbrev RegIdx := Fin 32

/-- 64 one bits, the truth value "true" of a compare and the fallback quotient. -/
def allOnes64 : Word := BitVec.allOnes 64

/-- 1 if the condition holds, else 0, as a 64-bit value (41_int_alu.md R162). -/
def flagWord (c : Bool) : Word := if c then 1#64 else 0#64

/-- All ones if the condition holds, else all zeros (46_fpu.md section 5). -/
def maskWord (c : Bool) : Word := if c then allOnes64 else 0#64

end Sys2Proof
end

