-- ==== Sys2Proof/Syntax.lean ====
section
/-!
DEFINITION. The instruction set: one constructor per row of spec/opcode_table.json, 97 in all
(spec/30_encoding.md R100, R104), operands in the table's order. A register operand is an index
below 32 by its type; `sa`, `imm` and `index` are raw field values, bounded by WellFormed
(R95). The comment after a constructor is the rule that gives its meaning.
-/

namespace Sys2Proof

inductive Instr where
  -- integer register-register (41_int_alu.md)
  | add (rd rs rt : RegIdx)  -- R150
  | addu (rd rs rt : RegIdx)  -- R151
  | sub (rd rs rt : RegIdx)  -- R152
  | subu (rd rs rt : RegIdx)  -- R153
  | dadd (rd rs rt : RegIdx)  -- R154
  | daddu (rd rs rt : RegIdx)  -- R155
  | dsub (rd rs rt : RegIdx)  -- R156
  | dsubu (rd rs rt : RegIdx)  -- R157
  | and (rd rs rt : RegIdx)  -- R158
  | or (rd rs rt : RegIdx)  -- R159
  | xor (rd rs rt : RegIdx)  -- R160
  | nor (rd rs rt : RegIdx)  -- R161
  | slt (rd rs rt : RegIdx)  -- R162
  | sltu (rd rs rt : RegIdx)  -- R163
  | sll (rd rt : RegIdx) (sa : Nat)  -- R164
  | srl (rd rt : RegIdx) (sa : Nat)  -- R165
  | sra (rd rt : RegIdx) (sa : Nat)  -- R166
  | dsll (rd rt : RegIdx) (sa : Nat)  -- R167
  | dsrl (rd rt : RegIdx) (sa : Nat)  -- R168
  | dsra (rd rt : RegIdx) (sa : Nat)  -- R169
  | dsll32 (rd rt : RegIdx) (sa : Nat)  -- R170
  | dsrl32 (rd rt : RegIdx) (sa : Nat)  -- R171
  | dsra32 (rd rt : RegIdx) (sa : Nat)  -- R172
  | sllv (rd rt rs : RegIdx)  -- R173
  | srlv (rd rt rs : RegIdx)  -- R174
  | srav (rd rt rs : RegIdx)  -- R175
  | dsllv (rd rt rs : RegIdx)  -- R176
  | dsrlv (rd rt rs : RegIdx)  -- R177
  | dsrav (rd rt rs : RegIdx)  -- R178
  | movz (rd rs rt : RegIdx)  -- R179
  | movn (rd rs rt : RegIdx)  -- R180
  -- integer immediate (42_int_imm.md)
  | addi (rt rs : RegIdx) (imm : Nat)  -- R200
  | addiu (rt rs : RegIdx) (imm : Nat)  -- R201
  | daddi (rt rs : RegIdx) (imm : Nat)  -- R202
  | daddiu (rt rs : RegIdx) (imm : Nat)  -- R203
  | slti (rt rs : RegIdx) (imm : Nat)  -- R204
  | sltiu (rt rs : RegIdx) (imm : Nat)  -- R205
  | andi (rt rs : RegIdx) (imm : Nat)  -- R206
  | ori (rt rs : RegIdx) (imm : Nat)  -- R207
  | xori (rt rs : RegIdx) (imm : Nat)  -- R208
  | lui (rt : RegIdx) (imm : Nat)  -- R209
  -- multiply and divide (43_muldiv.md)
  | mul (rd rs rt : RegIdx)  -- R220
  | muh (rd rs rt : RegIdx)  -- R221
  | mulu (rd rs rt : RegIdx)  -- R222
  | muhu (rd rs rt : RegIdx)  -- R223
  | div (rd rs rt : RegIdx)  -- R224
  | mod (rd rs rt : RegIdx)  -- R225
  | divu (rd rs rt : RegIdx)  -- R226
  | modu (rd rs rt : RegIdx)  -- R227
  | dmul (rd rs rt : RegIdx)  -- R228
  | dmuh (rd rs rt : RegIdx)  -- R229
  | dmulu (rd rs rt : RegIdx)  -- R230
  | dmuhu (rd rs rt : RegIdx)  -- R231
  | ddiv (rd rs rt : RegIdx)  -- R232
  | dmod (rd rs rt : RegIdx)  -- R233
  | ddivu (rd rs rt : RegIdx)  -- R234
  | dmodu (rd rs rt : RegIdx)  -- R235
  -- load and store (44_loadstore.md)
  | lb (rt : RegIdx) (imm : Nat) (rs : RegIdx)  -- R250
  | lbu (rt : RegIdx) (imm : Nat) (rs : RegIdx)  -- R251
  | lh (rt : RegIdx) (imm : Nat) (rs : RegIdx)  -- R252
  | lhu (rt : RegIdx) (imm : Nat) (rs : RegIdx)  -- R253
  | lw (rt : RegIdx) (imm : Nat) (rs : RegIdx)  -- R254
  | lwu (rt : RegIdx) (imm : Nat) (rs : RegIdx)  -- R255
  | ld (rt : RegIdx) (imm : Nat) (rs : RegIdx)  -- R256
  | sb (rt : RegIdx) (imm : Nat) (rs : RegIdx)  -- R257
  | sh (rt : RegIdx) (imm : Nat) (rs : RegIdx)  -- R258
  | sw (rt : RegIdx) (imm : Nat) (rs : RegIdx)  -- R259
  | sd (rt : RegIdx) (imm : Nat) (rs : RegIdx)  -- R260
  -- branches, jumps, HALT (45_control.md)
  | beq (rs rt : RegIdx) (imm : Nat)  -- R280
  | bne (rs rt : RegIdx) (imm : Nat)  -- R281
  | blez (rs : RegIdx) (imm : Nat)  -- R282
  | bgtz (rs : RegIdx) (imm : Nat)  -- R283
  | bgez (rs : RegIdx) (imm : Nat)  -- R284
  | j (index : Nat)  -- R285
  | jal (index : Nat)  -- R286
  | jr (rs : RegIdx)  -- R287
  | jalr (rd rs : RegIdx)  -- R288
  | halt  -- R289
  -- floating point (46_fpu.md)
  | addD (fd fs ft : RegIdx)  -- R310
  | subD (fd fs ft : RegIdx)  -- R311
  | mulD (fd fs ft : RegIdx)  -- R312
  | divD (fd fs ft : RegIdx)  -- R313
  | absD (fd fs : RegIdx)  -- R314
  | movD (fd fs : RegIdx)  -- R315
  | negD (fd fs : RegIdx)  -- R316
  | cvtLD (fd fs : RegIdx)  -- R317
  | cvtDL (fd fs : RegIdx)  -- R318
  | cmpUnD (fd fs ft : RegIdx)  -- R319
  | cmpEqD (fd fs ft : RegIdx)  -- R320
  | cmpLtD (fd fs ft : RegIdx)  -- R321
  | cmpLeD (fd fs ft : RegIdx)  -- R322
  | dmfc1 (rt fs : RegIdx)  -- R323
  | dmtc1 (rt fs : RegIdx)  -- R324
  | bc1eqz (ft : RegIdx) (imm : Nat)  -- R325
  | bc1nez (ft : RegIdx) (imm : Nat)  -- R326
  | ldc1 (ft : RegIdx) (imm : Nat) (rs : RegIdx)  -- R327
  | sdc1 (ft : RegIdx) (imm : Nat) (rs : RegIdx)  -- R328
  deriving DecidableEq, Repr

end Sys2Proof
end

