-- ==== Sys2Proof/WellFormed.lean ====
section
/-!
DEFINITION. Which instructions are well formed: the bounds of spec/30_encoding.md R95 ("valid means
every register index is 0 to 31, `sa` 0 to 31, `imm` 0 to 65535 as a raw field, `index` 0 to
2^26-1"). Register indices are bounded by their type.
-/

namespace Sys2Proof

/-- `sa` is a 5-bit field. -/
def saFits (sa : Nat) : Bool := decide (sa < 32)

/-- `imm` is a 16-bit field. -/
def immFits (imm : Nat) : Bool := decide (imm < 65536)

/-- `index` is a 26-bit field. -/
def indexFits (index : Nat) : Bool := decide (index < 67108864)

/-- The well-formedness check, one case per constructor (30_encoding.md R95). -/
def Instr.wellFormed : Instr → Bool
  | .add _ _ _ | .addu _ _ _ | .sub _ _ _ | .subu _ _ _ | .dadd _ _ _ | .daddu _ _ _
  | .dsub _ _ _ | .dsubu _ _ _ | .and _ _ _ | .or _ _ _ | .xor _ _ _ | .nor _ _ _ | .slt _ _ _
  | .sltu _ _ _ | .sllv _ _ _ | .srlv _ _ _ | .srav _ _ _ | .dsllv _ _ _ | .dsrlv _ _ _
  | .dsrav _ _ _ | .movz _ _ _ | .movn _ _ _ | .mul _ _ _ | .muh _ _ _ | .mulu _ _ _
  | .muhu _ _ _ | .div _ _ _ | .mod _ _ _ | .divu _ _ _ | .modu _ _ _ | .dmul _ _ _ | .dmuh _ _ _
  | .dmulu _ _ _ | .dmuhu _ _ _ | .ddiv _ _ _ | .dmod _ _ _ | .ddivu _ _ _ | .dmodu _ _ _ | .jr _
  | .jalr _ _ | .halt | .addD _ _ _ | .subD _ _ _ | .mulD _ _ _ | .divD _ _ _ | .absD _ _
  | .movD _ _ | .negD _ _ | .cvtLD _ _ | .cvtDL _ _ | .cmpUnD _ _ _ | .cmpEqD _ _ _
  | .cmpLtD _ _ _ | .cmpLeD _ _ _ | .dmfc1 _ _ | .dmtc1 _ _ => true
  | .sll _ _ sa | .srl _ _ sa | .sra _ _ sa | .dsll _ _ sa | .dsrl _ _ sa | .dsra _ _ sa
  | .dsll32 _ _ sa | .dsrl32 _ _ sa | .dsra32 _ _ sa => saFits sa
  | .addi _ _ imm | .addiu _ _ imm | .daddi _ _ imm | .daddiu _ _ imm | .slti _ _ imm
  | .sltiu _ _ imm | .andi _ _ imm | .ori _ _ imm | .xori _ _ imm | .lui _ imm | .lb _ imm _
  | .lbu _ imm _ | .lh _ imm _ | .lhu _ imm _ | .lw _ imm _ | .lwu _ imm _ | .ld _ imm _
  | .sb _ imm _ | .sh _ imm _ | .sw _ imm _ | .sd _ imm _ | .beq _ _ imm | .bne _ _ imm
  | .blez _ imm | .bgtz _ imm | .bgez _ imm | .bc1eqz _ imm | .bc1nez _ imm | .ldc1 _ imm _
  | .sdc1 _ imm _ => immFits imm
  | .j index | .jal index => indexFits index

/-- `i` is well formed. -/
abbrev WellFormed (i : Instr) : Prop := i.wellFormed = true

end Sys2Proof
end

