-- ==== Sys2Proof/Decode.lean ====
section
/-!
DEFINITION. The decoder and, after it, the encoder (spec/30_encoding.md).

The decoder follows the opcode maps R101 (major opcode), R102 (SPECIAL) and R103 (COP1), field by
field; the encoder follows the formats of R92 and the match values of R104. A word is read as a
natural number below 2^32; its fields are quotients and remainders by powers of two.
-/

namespace Sys2Proof

/-! ## Fields of a word (R91) -/

/-- Bits `hi..lo` of the number `n`, with `len = hi - lo + 1`. -/
def bitsAt (n lo len : Nat) : Nat := n / 2 ^ lo % 2 ^ len

/-- `op = w[31:26]`. -/
def opField (n : Nat) : Nat := bitsAt n 26 6
/-- `rs = w[25:21]`; in COP1 words `fmt`. -/
def rsField (n : Nat) : Nat := bitsAt n 21 5
/-- `rt = w[20:16]`; in COP1 words `ft`. -/
def rtField (n : Nat) : Nat := bitsAt n 16 5
/-- `rd = w[15:11]`; in COP1 words `fs`. -/
def rdField (n : Nat) : Nat := bitsAt n 11 5
/-- `sa = w[10:6]`; in COP1 words `fd`. -/
def saField (n : Nat) : Nat := bitsAt n 6 5
/-- `funct = w[5:0]`. -/
def functField (n : Nat) : Nat := bitsAt n 0 6
/-- `imm = w[15:0]`. -/
def immField (n : Nat) : Nat := bitsAt n 0 16
/-- `index = w[25:0]`. -/
def indexField (n : Nat) : Nat := bitsAt n 0 26

/-- A 5-bit field as a register index. -/
def regIdx (k : Nat) : RegIdx := Fin.ofNat 32 k

/-- The register named by bits 25:21. -/
def rsReg (n : Nat) : RegIdx := regIdx (rsField n)
/-- The register named by bits 20:16. -/
def rtReg (n : Nat) : RegIdx := regIdx (rtField n)
/-- The register named by bits 15:11. -/
def rdReg (n : Nat) : RegIdx := regIdx (rdField n)
/-- The register named by bits 10:6 (`fd` of COP1 words). -/
def saReg (n : Nat) : RegIdx := regIdx (saField n)

/-! ## The decoder (R99, R101, R102, R103, R105) -/

/-- What a word decodes to: an instruction, or `reserved` (R99, R105). -/
inductive Decoded where
  | ins (i : Instr)
  | reserved
  deriving DecidableEq, Repr

/-- The instruction of a decoded word, if it is one. -/
def Decoded.instr? : Decoded → Option Instr
  | .ins i => some i
  | .reserved => none

/-- `i` where the fixed fields of its format hold, else reserved (R92: "a word with other values
there is not that instruction"). -/
def fixedThen (c : Bool) (i : Instr) : Decoded := if c then .ins i else .reserved

/-- Format R with `sa = 0`, and format RSV: three registers. -/
def decodeR (n : Nat) (mk : RegIdx → RegIdx → RegIdx → Instr) (a b c : RegIdx) : Decoded :=
  fixedThen (saField n == 0) (mk a b c)

/-- Format RSA: `rs = 0`. -/
def decodeRSA (n : Nat) (mk : RegIdx → RegIdx → Nat → Instr) : Decoded :=
  fixedThen (rsField n == 0) (mk (rdReg n) (rtReg n) (saField n))

/-- Multiply and divide words: `sa = 2` gives `lo`, `sa = 3` gives `hi` (R102). -/
def decodeMulDiv (n : Nat) (lo hi : RegIdx → RegIdx → RegIdx → Instr) : Decoded :=
  match saField n with
  | 2 => .ins (lo (rdReg n) (rsReg n) (rtReg n))
  | 3 => .ins (hi (rdReg n) (rsReg n) (rtReg n))
  | _ => .reserved

/-- The SPECIAL map, `op = 0` (R102). -/
def decodeSpecial (n : Nat) : Decoded :=
  match functField n with
  | 0x00 => decodeRSA n .sll
  | 0x02 => decodeRSA n .srl
  | 0x03 => decodeRSA n .sra
  | 0x04 => decodeR n .sllv (rdReg n) (rtReg n) (rsReg n)
  | 0x06 => decodeR n .srlv (rdReg n) (rtReg n) (rsReg n)
  | 0x07 => decodeR n .srav (rdReg n) (rtReg n) (rsReg n)
  | 0x08 => fixedThen (bitsAt n 6 15 == 0) (.jr (rsReg n))
  | 0x09 => fixedThen (rtField n == 0 && saField n == 0) (.jalr (rdReg n) (rsReg n))
  | 0x0A => decodeR n .movz (rdReg n) (rsReg n) (rtReg n)
  | 0x0B => decodeR n .movn (rdReg n) (rsReg n) (rtReg n)
  | 0x14 => decodeR n .dsllv (rdReg n) (rtReg n) (rsReg n)
  | 0x16 => decodeR n .dsrlv (rdReg n) (rtReg n) (rsReg n)
  | 0x17 => decodeR n .dsrav (rdReg n) (rtReg n) (rsReg n)
  | 0x18 => decodeMulDiv n .mul .muh
  | 0x19 => decodeMulDiv n .mulu .muhu
  | 0x1A => decodeMulDiv n .div .mod
  | 0x1B => decodeMulDiv n .divu .modu
  | 0x1C => decodeMulDiv n .dmul .dmuh
  | 0x1D => decodeMulDiv n .dmulu .dmuhu
  | 0x1E => decodeMulDiv n .ddiv .dmod
  | 0x1F => decodeMulDiv n .ddivu .dmodu
  | 0x20 => decodeR n .add (rdReg n) (rsReg n) (rtReg n)
  | 0x21 => decodeR n .addu (rdReg n) (rsReg n) (rtReg n)
  | 0x22 => decodeR n .sub (rdReg n) (rsReg n) (rtReg n)
  | 0x23 => decodeR n .subu (rdReg n) (rsReg n) (rtReg n)
  | 0x24 => decodeR n .and (rdReg n) (rsReg n) (rtReg n)
  | 0x25 => decodeR n .or (rdReg n) (rsReg n) (rtReg n)
  | 0x26 => decodeR n .xor (rdReg n) (rsReg n) (rtReg n)
  | 0x27 => decodeR n .nor (rdReg n) (rsReg n) (rtReg n)
  | 0x2A => decodeR n .slt (rdReg n) (rsReg n) (rtReg n)
  | 0x2B => decodeR n .sltu (rdReg n) (rsReg n) (rtReg n)
  | 0x2C => decodeR n .dadd (rdReg n) (rsReg n) (rtReg n)
  | 0x2D => decodeR n .daddu (rdReg n) (rsReg n) (rtReg n)
  | 0x2E => decodeR n .dsub (rdReg n) (rsReg n) (rtReg n)
  | 0x2F => decodeR n .dsubu (rdReg n) (rsReg n) (rtReg n)
  | 0x38 => decodeRSA n .dsll
  | 0x3A => decodeRSA n .dsrl
  | 0x3B => decodeRSA n .dsra
  | 0x3C => decodeRSA n .dsll32
  | 0x3E => decodeRSA n .dsrl32
  | 0x3F => decodeRSA n .dsra32
  | _ => .reserved

/-- The REGIMM words, `op = 1`: HALT is the single word 0x04000000, BGEZ has `rt = 1` (R101). -/
def decodeRegimm (n : Nat) : Decoded :=
  match rtField n with
  | 0 => fixedThen (indexField n == 0) .halt
  | 1 => .ins (.bgez (rsReg n) (immField n))
  | _ => .reserved

/-- Format FR3. -/
def decodeFR3 (n : Nat) (mk : RegIdx → RegIdx → RegIdx → Instr) : Decoded :=
  .ins (mk (saReg n) (rdReg n) (rtReg n))

/-- Format FR2: `ft = 0`. -/
def decodeFR2 (n : Nat) (mk : RegIdx → RegIdx → Instr) : Decoded :=
  fixedThen (rtField n == 0) (mk (saReg n) (rdReg n))

/-- COP1 words with `fmt` = D, 10001 (R103). -/
def decodeFmtD (n : Nat) : Decoded :=
  match functField n with
  | 0x00 => decodeFR3 n .addD
  | 0x01 => decodeFR3 n .subD
  | 0x02 => decodeFR3 n .mulD
  | 0x03 => decodeFR3 n .divD
  | 0x05 => decodeFR2 n .absD
  | 0x06 => decodeFR2 n .movD
  | 0x07 => decodeFR2 n .negD
  | 0x25 => decodeFR2 n .cvtLD
  | _ => .reserved

/-- COP1 words with `fmt` = L, 10101 (R103). -/
def decodeFmtL (n : Nat) : Decoded :=
  match functField n with
  | 0x01 => decodeFR3 n .cmpUnD
  | 0x02 => decodeFR3 n .cmpEqD
  | 0x04 => decodeFR3 n .cmpLtD
  | 0x06 => decodeFR3 n .cmpLeD
  | 0x21 => decodeFR2 n .cvtDL
  | _ => .reserved

/-- The COP1 map, `op = 0x11`, by `fmt` (R103). -/
def decodeCop1 (n : Nat) : Decoded :=
  match rsField n with
  | 0b00001 => fixedThen (bitsAt n 0 11 == 0) (.dmfc1 (rtReg n) (rdReg n))
  | 0b00101 => fixedThen (bitsAt n 0 11 == 0) (.dmtc1 (rtReg n) (rdReg n))
  | 0b01001 => .ins (.bc1eqz (rtReg n) (immField n))
  | 0b01101 => .ins (.bc1nez (rtReg n) (immField n))
  | 0b10001 => decodeFmtD n
  | 0b10101 => decodeFmtL n
  | _ => .reserved

/-- Formats I, MEM and FMEM read as register 20:16, register 25:21, immediate. -/
def decodeI (n : Nat) (mk : RegIdx → RegIdx → Nat → Instr) : Decoded :=
  .ins (mk (rtReg n) (rsReg n) (immField n))

/-- Formats MEM and FMEM: register 20:16, offset, base 25:21. -/
def decodeMem (n : Nat) (mk : RegIdx → Nat → RegIdx → Instr) : Decoded :=
  .ins (mk (rtReg n) (immField n) (rsReg n))

/-- The major opcode map (R101) on the number a word stands for. -/
def decodeNat (n : Nat) : Decoded :=
  match opField n with
  | 0x00 => decodeSpecial n
  | 0x01 => decodeRegimm n
  | 0x02 => .ins (.j (indexField n))
  | 0x03 => .ins (.jal (indexField n))
  | 0x04 => .ins (.beq (rsReg n) (rtReg n) (immField n))
  | 0x05 => .ins (.bne (rsReg n) (rtReg n) (immField n))
  | 0x06 => fixedThen (rtField n == 0) (.blez (rsReg n) (immField n))
  | 0x07 => fixedThen (rtField n == 0) (.bgtz (rsReg n) (immField n))
  | 0x08 => decodeI n .addi
  | 0x09 => decodeI n .addiu
  | 0x0A => decodeI n .slti
  | 0x0B => decodeI n .sltiu
  | 0x0C => decodeI n .andi
  | 0x0D => decodeI n .ori
  | 0x0E => decodeI n .xori
  | 0x0F => fixedThen (rsField n == 0) (.lui (rtReg n) (immField n))
  | 0x11 => decodeCop1 n
  | 0x18 => decodeI n .daddi
  | 0x19 => decodeI n .daddiu
  | 0x20 => decodeMem n .lb
  | 0x21 => decodeMem n .lh
  | 0x23 => decodeMem n .lw
  | 0x24 => decodeMem n .lbu
  | 0x25 => decodeMem n .lhu
  | 0x27 => decodeMem n .lwu
  | 0x28 => decodeMem n .sb
  | 0x29 => decodeMem n .sh
  | 0x2B => decodeMem n .sw
  | 0x35 => decodeMem n .ldc1
  | 0x37 => decodeMem n .ld
  | 0x3D => decodeMem n .sdc1
  | 0x3F => decodeMem n .sd
  | _ => .reserved

/-- `decode(w)` (R99): total on 32-bit words. -/
def decode (w : IWord) : Decoded := decodeNat w.toNat

/-- The decoder on a word numbered as spec/opcode_table.json numbers it: bit 0 is the least
significant bit. An instruction is one 32-bit word (R90), an element of IMEM (20_memory.md R61),
so there is no byte order to undo. Bits from `nbits` up are 0. -/
def decodeTableWord (nbits w : Nat) : Option Instr :=
  (decode (BitVec.ofNat 32 (w % 2 ^ nbits))).instr?

/-! ## The formats and the encoder (R92, R95, R104) -/

/-- The formats of R92 with the codes that select an instruction and its operand fields. -/
inductive Layout where
  | r (sa funct : Nat) (rd rs rt : RegIdx)
  | rsa (funct : Nat) (rd rt : RegIdx) (sa : Nat)
  | rsv (funct : Nat) (rd rt rs : RegIdx)
  | i (op : Nat) (rt rs : RegIdx) (imm : Nat)
  | lui (rt : RegIdx) (imm : Nat)
  | mem (op : Nat) (rt : RegIdx) (imm : Nat) (rs : RegIdx)
  | b2 (op : Nat) (rs rt : RegIdx) (imm : Nat)
  | b1 (op code : Nat) (rs : RegIdx) (imm : Nat)
  | j (op index : Nat)
  | jr (rs : RegIdx)
  | jalr (rd rs : RegIdx)
  | h
  | fr3 (fmt funct : Nat) (fd fs ft : RegIdx)
  | fr2 (fmt funct : Nat) (fd fs : RegIdx)
  | fm (sub : Nat) (rt fs : RegIdx)
  | fb (sub : Nat) (ft : RegIdx) (imm : Nat)
  | fmem (op : Nat) (ft : RegIdx) (imm : Nat) (rs : RegIdx)
  deriving DecidableEq, Repr

/-- The format and codes of every instruction (R104, column "format" and the fixed bits of
"match"). -/
def Instr.layout : Instr → Layout
  | .add rd rs rt => .r 0 0x20 rd rs rt
  | .addu rd rs rt => .r 0 0x21 rd rs rt
  | .sub rd rs rt => .r 0 0x22 rd rs rt
  | .subu rd rs rt => .r 0 0x23 rd rs rt
  | .dadd rd rs rt => .r 0 0x2C rd rs rt
  | .daddu rd rs rt => .r 0 0x2D rd rs rt
  | .dsub rd rs rt => .r 0 0x2E rd rs rt
  | .dsubu rd rs rt => .r 0 0x2F rd rs rt
  | .and rd rs rt => .r 0 0x24 rd rs rt
  | .or rd rs rt => .r 0 0x25 rd rs rt
  | .xor rd rs rt => .r 0 0x26 rd rs rt
  | .nor rd rs rt => .r 0 0x27 rd rs rt
  | .slt rd rs rt => .r 0 0x2A rd rs rt
  | .sltu rd rs rt => .r 0 0x2B rd rs rt
  | .sll rd rt sa => .rsa 0x00 rd rt sa
  | .srl rd rt sa => .rsa 0x02 rd rt sa
  | .sra rd rt sa => .rsa 0x03 rd rt sa
  | .dsll rd rt sa => .rsa 0x38 rd rt sa
  | .dsrl rd rt sa => .rsa 0x3A rd rt sa
  | .dsra rd rt sa => .rsa 0x3B rd rt sa
  | .dsll32 rd rt sa => .rsa 0x3C rd rt sa
  | .dsrl32 rd rt sa => .rsa 0x3E rd rt sa
  | .dsra32 rd rt sa => .rsa 0x3F rd rt sa
  | .sllv rd rt rs => .rsv 0x04 rd rt rs
  | .srlv rd rt rs => .rsv 0x06 rd rt rs
  | .srav rd rt rs => .rsv 0x07 rd rt rs
  | .dsllv rd rt rs => .rsv 0x14 rd rt rs
  | .dsrlv rd rt rs => .rsv 0x16 rd rt rs
  | .dsrav rd rt rs => .rsv 0x17 rd rt rs
  | .movz rd rs rt => .r 0 0x0A rd rs rt
  | .movn rd rs rt => .r 0 0x0B rd rs rt
  | .addi rt rs imm => .i 0x08 rt rs imm
  | .addiu rt rs imm => .i 0x09 rt rs imm
  | .daddi rt rs imm => .i 0x18 rt rs imm
  | .daddiu rt rs imm => .i 0x19 rt rs imm
  | .slti rt rs imm => .i 0x0A rt rs imm
  | .sltiu rt rs imm => .i 0x0B rt rs imm
  | .andi rt rs imm => .i 0x0C rt rs imm
  | .ori rt rs imm => .i 0x0D rt rs imm
  | .xori rt rs imm => .i 0x0E rt rs imm
  | .lui rt imm => .lui rt imm
  | .mul rd rs rt => .r 2 0x18 rd rs rt
  | .muh rd rs rt => .r 3 0x18 rd rs rt
  | .mulu rd rs rt => .r 2 0x19 rd rs rt
  | .muhu rd rs rt => .r 3 0x19 rd rs rt
  | .div rd rs rt => .r 2 0x1A rd rs rt
  | .mod rd rs rt => .r 3 0x1A rd rs rt
  | .divu rd rs rt => .r 2 0x1B rd rs rt
  | .modu rd rs rt => .r 3 0x1B rd rs rt
  | .dmul rd rs rt => .r 2 0x1C rd rs rt
  | .dmuh rd rs rt => .r 3 0x1C rd rs rt
  | .dmulu rd rs rt => .r 2 0x1D rd rs rt
  | .dmuhu rd rs rt => .r 3 0x1D rd rs rt
  | .ddiv rd rs rt => .r 2 0x1E rd rs rt
  | .dmod rd rs rt => .r 3 0x1E rd rs rt
  | .ddivu rd rs rt => .r 2 0x1F rd rs rt
  | .dmodu rd rs rt => .r 3 0x1F rd rs rt
  | .lb rt imm rs => .mem 0x20 rt imm rs
  | .lbu rt imm rs => .mem 0x24 rt imm rs
  | .lh rt imm rs => .mem 0x21 rt imm rs
  | .lhu rt imm rs => .mem 0x25 rt imm rs
  | .lw rt imm rs => .mem 0x23 rt imm rs
  | .lwu rt imm rs => .mem 0x27 rt imm rs
  | .ld rt imm rs => .mem 0x37 rt imm rs
  | .sb rt imm rs => .mem 0x28 rt imm rs
  | .sh rt imm rs => .mem 0x29 rt imm rs
  | .sw rt imm rs => .mem 0x2B rt imm rs
  | .sd rt imm rs => .mem 0x3F rt imm rs
  | .beq rs rt imm => .b2 0x04 rs rt imm
  | .bne rs rt imm => .b2 0x05 rs rt imm
  | .blez rs imm => .b1 0x06 0 rs imm
  | .bgtz rs imm => .b1 0x07 0 rs imm
  | .bgez rs imm => .b1 0x01 1 rs imm
  | .j index => .j 0x02 index
  | .jal index => .j 0x03 index
  | .jr rs => .jr rs
  | .jalr rd rs => .jalr rd rs
  | .halt => .h
  | .addD fd fs ft => .fr3 17 0x00 fd fs ft
  | .subD fd fs ft => .fr3 17 0x01 fd fs ft
  | .mulD fd fs ft => .fr3 17 0x02 fd fs ft
  | .divD fd fs ft => .fr3 17 0x03 fd fs ft
  | .absD fd fs => .fr2 17 0x05 fd fs
  | .movD fd fs => .fr2 17 0x06 fd fs
  | .negD fd fs => .fr2 17 0x07 fd fs
  | .cvtLD fd fs => .fr2 17 0x25 fd fs
  | .cvtDL fd fs => .fr2 21 0x21 fd fs
  | .cmpUnD fd fs ft => .fr3 21 0x01 fd fs ft
  | .cmpEqD fd fs ft => .fr3 21 0x02 fd fs ft
  | .cmpLtD fd fs ft => .fr3 21 0x04 fd fs ft
  | .cmpLeD fd fs ft => .fr3 21 0x06 fd fs ft
  | .dmfc1 rt fs => .fm 1 rt fs
  | .dmtc1 rt fs => .fm 5 rt fs
  | .bc1eqz ft imm => .fb 9 ft imm
  | .bc1nez ft imm => .fb 13 ft imm
  | .ldc1 ft imm rs => .fmem 0x35 ft imm rs
  | .sdc1 ft imm rs => .fmem 0x3D ft imm rs

/-- `op ‖ rs ‖ rt ‖ rd ‖ sa ‖ funct` as a number (R92). -/
def packR (op rs rt rd sa funct : Nat) : Nat :=
  op * 2 ^ 26 + rs * 2 ^ 21 + rt * 2 ^ 16 + rd * 2 ^ 11 + sa * 2 ^ 6 + funct

/-- `op ‖ rs ‖ rt ‖ imm` as a number (R92). -/
def packI (op rs rt imm : Nat) : Nat :=
  op * 2 ^ 26 + rs * 2 ^ 21 + rt * 2 ^ 16 + imm

/-- The word of a layout as a number, high field first (R92). -/
def Layout.toNat : Layout → Nat
  | .r sa funct rd rs rt => packR 0 rs.val rt.val rd.val sa funct
  | .rsa funct rd rt sa => packR 0 0 rt.val rd.val sa funct
  | .rsv funct rd rt rs => packR 0 rs.val rt.val rd.val 0 funct
  | .i op rt rs imm => packI op rs.val rt.val imm
  | .lui rt imm => packI 0x0F 0 rt.val imm
  | .mem op rt imm rs => packI op rs.val rt.val imm
  | .b2 op rs rt imm => packI op rs.val rt.val imm
  | .b1 op code rs imm => packI op rs.val code imm
  | .j op index => op * 2 ^ 26 + index
  | .jr rs => packR 0 rs.val 0 0 0 0x08
  | .jalr rd rs => packR 0 rs.val 0 rd.val 0 0x09
  | .h => 0x04000000
  | .fr3 fmt funct fd fs ft => packR 0x11 fmt ft.val fs.val fd.val funct
  | .fr2 fmt funct fd fs => packR 0x11 fmt 0 fs.val fd.val funct
  | .fm sub rt fs => packR 0x11 sub rt.val fs.val 0 0
  | .fb sub ft imm => packI 0x11 sub ft.val imm
  | .fmem op ft imm rs => packI op rs.val ft.val imm

/-- `encode(fields)` (R95): the operand fields and the fixed fields of the format, placed. -/
def encode (i : Instr) : IWord := BitVec.ofNat 32 i.layout.toNat

/-! ## The mask/match table (R104) -/

/-- The fixed bits of a format as a mask (R92, R104 column "mask"). -/
def Layout.mask : Layout → IWord
  | .r .. => 0xFC0007FF#32
  | .rsa .. => 0xFFE0003F#32
  | .rsv .. => 0xFC0007FF#32
  | .i .. => 0xFC000000#32
  | .lui .. => 0xFFE00000#32
  | .mem .. => 0xFC000000#32
  | .b2 .. => 0xFC000000#32
  | .b1 .. => 0xFC1F0000#32
  | .j .. => 0xFC000000#32
  | .jr .. => 0xFC1FFFFF#32
  | .jalr .. => 0xFC1F07FF#32
  | .h => 0xFFFFFFFF#32
  | .fr3 .. => 0xFFE0003F#32
  | .fr2 .. => 0xFFFF003F#32
  | .fm .. => 0xFFE007FF#32
  | .fb .. => 0xFFE00000#32
  | .fmem .. => 0xFC000000#32

/-- One row of the opcode table: the mnemonic, its match and its mask (R104). -/
structure TableRow where
  mnemonic : String
  mtch : IWord
  mask : IWord
  deriving DecidableEq, Repr

/-- `w AND mask = match` (R99). -/
def TableRow.covers (r : TableRow) (w : IWord) : Bool := w &&& r.mask == r.mtch

/-- R104, the rows of integer register-register (41_int_alu.md). -/
def tableIntAlu : List TableRow :=
  [⟨"ADD", 0x00000020#32, 0xFC0007FF#32⟩,
   ⟨"ADDU", 0x00000021#32, 0xFC0007FF#32⟩,
   ⟨"SUB", 0x00000022#32, 0xFC0007FF#32⟩,
   ⟨"SUBU", 0x00000023#32, 0xFC0007FF#32⟩,
   ⟨"DADD", 0x0000002C#32, 0xFC0007FF#32⟩,
   ⟨"DADDU", 0x0000002D#32, 0xFC0007FF#32⟩,
   ⟨"DSUB", 0x0000002E#32, 0xFC0007FF#32⟩,
   ⟨"DSUBU", 0x0000002F#32, 0xFC0007FF#32⟩,
   ⟨"AND", 0x00000024#32, 0xFC0007FF#32⟩,
   ⟨"OR", 0x00000025#32, 0xFC0007FF#32⟩,
   ⟨"XOR", 0x00000026#32, 0xFC0007FF#32⟩,
   ⟨"NOR", 0x00000027#32, 0xFC0007FF#32⟩,
   ⟨"SLT", 0x0000002A#32, 0xFC0007FF#32⟩,
   ⟨"SLTU", 0x0000002B#32, 0xFC0007FF#32⟩,
   ⟨"SLL", 0x00000000#32, 0xFFE0003F#32⟩,
   ⟨"SRL", 0x00000002#32, 0xFFE0003F#32⟩,
   ⟨"SRA", 0x00000003#32, 0xFFE0003F#32⟩,
   ⟨"DSLL", 0x00000038#32, 0xFFE0003F#32⟩,
   ⟨"DSRL", 0x0000003A#32, 0xFFE0003F#32⟩,
   ⟨"DSRA", 0x0000003B#32, 0xFFE0003F#32⟩,
   ⟨"DSLL32", 0x0000003C#32, 0xFFE0003F#32⟩,
   ⟨"DSRL32", 0x0000003E#32, 0xFFE0003F#32⟩,
   ⟨"DSRA32", 0x0000003F#32, 0xFFE0003F#32⟩,
   ⟨"SLLV", 0x00000004#32, 0xFC0007FF#32⟩,
   ⟨"SRLV", 0x00000006#32, 0xFC0007FF#32⟩,
   ⟨"SRAV", 0x00000007#32, 0xFC0007FF#32⟩,
   ⟨"DSLLV", 0x00000014#32, 0xFC0007FF#32⟩,
   ⟨"DSRLV", 0x00000016#32, 0xFC0007FF#32⟩,
   ⟨"DSRAV", 0x00000017#32, 0xFC0007FF#32⟩,
   ⟨"MOVZ", 0x0000000A#32, 0xFC0007FF#32⟩,
   ⟨"MOVN", 0x0000000B#32, 0xFC0007FF#32⟩]

/-- R104, the rows of integer immediate (42_int_imm.md). -/
def tableIntImm : List TableRow :=
  [⟨"ADDI", 0x20000000#32, 0xFC000000#32⟩,
   ⟨"ADDIU", 0x24000000#32, 0xFC000000#32⟩,
   ⟨"DADDI", 0x60000000#32, 0xFC000000#32⟩,
   ⟨"DADDIU", 0x64000000#32, 0xFC000000#32⟩,
   ⟨"SLTI", 0x28000000#32, 0xFC000000#32⟩,
   ⟨"SLTIU", 0x2C000000#32, 0xFC000000#32⟩,
   ⟨"ANDI", 0x30000000#32, 0xFC000000#32⟩,
   ⟨"ORI", 0x34000000#32, 0xFC000000#32⟩,
   ⟨"XORI", 0x38000000#32, 0xFC000000#32⟩,
   ⟨"LUI", 0x3C000000#32, 0xFFE00000#32⟩]

/-- R104, the rows of multiply and divide (43_muldiv.md). -/
def tableMulDiv : List TableRow :=
  [⟨"MUL", 0x00000098#32, 0xFC0007FF#32⟩,
   ⟨"MUH", 0x000000D8#32, 0xFC0007FF#32⟩,
   ⟨"MULU", 0x00000099#32, 0xFC0007FF#32⟩,
   ⟨"MUHU", 0x000000D9#32, 0xFC0007FF#32⟩,
   ⟨"DIV", 0x0000009A#32, 0xFC0007FF#32⟩,
   ⟨"MOD", 0x000000DA#32, 0xFC0007FF#32⟩,
   ⟨"DIVU", 0x0000009B#32, 0xFC0007FF#32⟩,
   ⟨"MODU", 0x000000DB#32, 0xFC0007FF#32⟩,
   ⟨"DMUL", 0x0000009C#32, 0xFC0007FF#32⟩,
   ⟨"DMUH", 0x000000DC#32, 0xFC0007FF#32⟩,
   ⟨"DMULU", 0x0000009D#32, 0xFC0007FF#32⟩,
   ⟨"DMUHU", 0x000000DD#32, 0xFC0007FF#32⟩,
   ⟨"DDIV", 0x0000009E#32, 0xFC0007FF#32⟩,
   ⟨"DMOD", 0x000000DE#32, 0xFC0007FF#32⟩,
   ⟨"DDIVU", 0x0000009F#32, 0xFC0007FF#32⟩,
   ⟨"DMODU", 0x000000DF#32, 0xFC0007FF#32⟩]

/-- R104, the rows of load and store (44_loadstore.md). -/
def tableLoadStore : List TableRow :=
  [⟨"LB", 0x80000000#32, 0xFC000000#32⟩,
   ⟨"LBU", 0x90000000#32, 0xFC000000#32⟩,
   ⟨"LH", 0x84000000#32, 0xFC000000#32⟩,
   ⟨"LHU", 0x94000000#32, 0xFC000000#32⟩,
   ⟨"LW", 0x8C000000#32, 0xFC000000#32⟩,
   ⟨"LWU", 0x9C000000#32, 0xFC000000#32⟩,
   ⟨"LD", 0xDC000000#32, 0xFC000000#32⟩,
   ⟨"SB", 0xA0000000#32, 0xFC000000#32⟩,
   ⟨"SH", 0xA4000000#32, 0xFC000000#32⟩,
   ⟨"SW", 0xAC000000#32, 0xFC000000#32⟩,
   ⟨"SD", 0xFC000000#32, 0xFC000000#32⟩]

/-- R104, the rows of branches, jumps, HALT (45_control.md). -/
def tableControl : List TableRow :=
  [⟨"BEQ", 0x10000000#32, 0xFC000000#32⟩,
   ⟨"BNE", 0x14000000#32, 0xFC000000#32⟩,
   ⟨"BLEZ", 0x18000000#32, 0xFC1F0000#32⟩,
   ⟨"BGTZ", 0x1C000000#32, 0xFC1F0000#32⟩,
   ⟨"BGEZ", 0x04010000#32, 0xFC1F0000#32⟩,
   ⟨"J", 0x08000000#32, 0xFC000000#32⟩,
   ⟨"JAL", 0x0C000000#32, 0xFC000000#32⟩,
   ⟨"JR", 0x00000008#32, 0xFC1FFFFF#32⟩,
   ⟨"JALR", 0x00000009#32, 0xFC1F07FF#32⟩,
   ⟨"HALT", 0x04000000#32, 0xFFFFFFFF#32⟩]

/-- R104, the rows of floating point (46_fpu.md). -/
def tableFpu : List TableRow :=
  [⟨"ADD.D", 0x46200000#32, 0xFFE0003F#32⟩,
   ⟨"SUB.D", 0x46200001#32, 0xFFE0003F#32⟩,
   ⟨"MUL.D", 0x46200002#32, 0xFFE0003F#32⟩,
   ⟨"DIV.D", 0x46200003#32, 0xFFE0003F#32⟩,
   ⟨"ABS.D", 0x46200005#32, 0xFFFF003F#32⟩,
   ⟨"MOV.D", 0x46200006#32, 0xFFFF003F#32⟩,
   ⟨"NEG.D", 0x46200007#32, 0xFFFF003F#32⟩,
   ⟨"CVT.L.D", 0x46200025#32, 0xFFFF003F#32⟩,
   ⟨"CVT.D.L", 0x46A00021#32, 0xFFFF003F#32⟩,
   ⟨"CMP.UN.D", 0x46A00001#32, 0xFFE0003F#32⟩,
   ⟨"CMP.EQ.D", 0x46A00002#32, 0xFFE0003F#32⟩,
   ⟨"CMP.LT.D", 0x46A00004#32, 0xFFE0003F#32⟩,
   ⟨"CMP.LE.D", 0x46A00006#32, 0xFFE0003F#32⟩,
   ⟨"DMFC1", 0x44200000#32, 0xFFE007FF#32⟩,
   ⟨"DMTC1", 0x44A00000#32, 0xFFE007FF#32⟩,
   ⟨"BC1EQZ", 0x45200000#32, 0xFFE00000#32⟩,
   ⟨"BC1NEZ", 0x45A00000#32, 0xFFE00000#32⟩,
   ⟨"LDC1", 0xD4000000#32, 0xFC000000#32⟩,
   ⟨"SDC1", 0xF4000000#32, 0xFC000000#32⟩]

/-- The complete table of R104, in its order. -/
def opcodeTable : List TableRow :=
  tableIntAlu ++ tableIntImm ++ tableMulDiv ++ tableLoadStore ++ tableControl ++ tableFpu

/-- The mnemonic of an instruction, as the table spells it. -/
def Instr.mnemonic : Instr → String
  | .add _ _ _ => "ADD"
  | .addu _ _ _ => "ADDU"
  | .sub _ _ _ => "SUB"
  | .subu _ _ _ => "SUBU"
  | .dadd _ _ _ => "DADD"
  | .daddu _ _ _ => "DADDU"
  | .dsub _ _ _ => "DSUB"
  | .dsubu _ _ _ => "DSUBU"
  | .and _ _ _ => "AND"
  | .or _ _ _ => "OR"
  | .xor _ _ _ => "XOR"
  | .nor _ _ _ => "NOR"
  | .slt _ _ _ => "SLT"
  | .sltu _ _ _ => "SLTU"
  | .sll _ _ _ => "SLL"
  | .srl _ _ _ => "SRL"
  | .sra _ _ _ => "SRA"
  | .dsll _ _ _ => "DSLL"
  | .dsrl _ _ _ => "DSRL"
  | .dsra _ _ _ => "DSRA"
  | .dsll32 _ _ _ => "DSLL32"
  | .dsrl32 _ _ _ => "DSRL32"
  | .dsra32 _ _ _ => "DSRA32"
  | .sllv _ _ _ => "SLLV"
  | .srlv _ _ _ => "SRLV"
  | .srav _ _ _ => "SRAV"
  | .dsllv _ _ _ => "DSLLV"
  | .dsrlv _ _ _ => "DSRLV"
  | .dsrav _ _ _ => "DSRAV"
  | .movz _ _ _ => "MOVZ"
  | .movn _ _ _ => "MOVN"
  | .addi _ _ _ => "ADDI"
  | .addiu _ _ _ => "ADDIU"
  | .daddi _ _ _ => "DADDI"
  | .daddiu _ _ _ => "DADDIU"
  | .slti _ _ _ => "SLTI"
  | .sltiu _ _ _ => "SLTIU"
  | .andi _ _ _ => "ANDI"
  | .ori _ _ _ => "ORI"
  | .xori _ _ _ => "XORI"
  | .lui _ _ => "LUI"
  | .mul _ _ _ => "MUL"
  | .muh _ _ _ => "MUH"
  | .mulu _ _ _ => "MULU"
  | .muhu _ _ _ => "MUHU"
  | .div _ _ _ => "DIV"
  | .mod _ _ _ => "MOD"
  | .divu _ _ _ => "DIVU"
  | .modu _ _ _ => "MODU"
  | .dmul _ _ _ => "DMUL"
  | .dmuh _ _ _ => "DMUH"
  | .dmulu _ _ _ => "DMULU"
  | .dmuhu _ _ _ => "DMUHU"
  | .ddiv _ _ _ => "DDIV"
  | .dmod _ _ _ => "DMOD"
  | .ddivu _ _ _ => "DDIVU"
  | .dmodu _ _ _ => "DMODU"
  | .lb _ _ _ => "LB"
  | .lbu _ _ _ => "LBU"
  | .lh _ _ _ => "LH"
  | .lhu _ _ _ => "LHU"
  | .lw _ _ _ => "LW"
  | .lwu _ _ _ => "LWU"
  | .ld _ _ _ => "LD"
  | .sb _ _ _ => "SB"
  | .sh _ _ _ => "SH"
  | .sw _ _ _ => "SW"
  | .sd _ _ _ => "SD"
  | .beq _ _ _ => "BEQ"
  | .bne _ _ _ => "BNE"
  | .blez _ _ => "BLEZ"
  | .bgtz _ _ => "BGTZ"
  | .bgez _ _ => "BGEZ"
  | .j _ => "J"
  | .jal _ => "JAL"
  | .jr _ => "JR"
  | .jalr _ _ => "JALR"
  | .halt => "HALT"
  | .addD _ _ _ => "ADD.D"
  | .subD _ _ _ => "SUB.D"
  | .mulD _ _ _ => "MUL.D"
  | .divD _ _ _ => "DIV.D"
  | .absD _ _ => "ABS.D"
  | .movD _ _ => "MOV.D"
  | .negD _ _ => "NEG.D"
  | .cvtLD _ _ => "CVT.L.D"
  | .cvtDL _ _ => "CVT.D.L"
  | .cmpUnD _ _ _ => "CMP.UN.D"
  | .cmpEqD _ _ _ => "CMP.EQ.D"
  | .cmpLtD _ _ _ => "CMP.LT.D"
  | .cmpLeD _ _ _ => "CMP.LE.D"
  | .dmfc1 _ _ => "DMFC1"
  | .dmtc1 _ _ => "DMTC1"
  | .bc1eqz _ _ => "BC1EQZ"
  | .bc1nez _ _ => "BC1NEZ"
  | .ldc1 _ _ _ => "LDC1"
  | .sdc1 _ _ _ => "SDC1"

end Sys2Proof
end

