-- ==== Sys2Proof/Config.lean ====
section
/-!
DEFINITION. What is fixed for a run: the configuration flags, the open parameters and the
`DMEM_BUSY` input, all as plain data (spec/00_scope.md R5, spec/10_state.md R45,
spec/93_implementation_defined.md section 1). The machine has no undefined result (60_exceptions.md
R377); the one opaque constant is the open parameter `DMEM_BUSY` as a function of the cycle.
-/

namespace Sys2Proof

/-- RESET_PC (00_scope.md R5, 20_memory.md R73). -/
def resetPc : Word := 0#64

/-- The five configuration flags (10_state.md R45). A set mask means that the fault kind does not
stop the run. -/
structure Cfg where
  /-- forwarding enabled -/
  fwd : Bool
  /-- invalid operation is masked -/
  maskInv : Bool
  /-- overflow is masked -/
  maskOvf : Bool
  /-- underflow is masked -/
  maskUnf : Bool
  /-- divide-by-zero is masked -/
  maskDz : Bool
  deriving DecidableEq, Repr

/-- Forwarding off and no mask set. DESIGN CHOICE (log 6), unsafe: the value of the configuration
inputs in the constant `State.reset`; the spec gives the inputs no value. -/
def Cfg.allOff : Cfg :=
  { fwd := false, maskInv := false, maskOvf := false, maskUnf := false, maskDz := false }

/-- The open parameters IMEM_BYTES and DMEM_BYTES (00_scope.md R5, 92_eei_decisions.md D5), held as the
numbers of words and of doublewords: a multiple of 4 and a multiple of 8, each at most 2^64
(93_implementation_defined.md section 1), and no other size can be written down. -/
structure Params where
  /-- words of instruction memory -/
  imemWords : Fin (2 ^ 62 + 1)
  /-- doublewords of data memory -/
  dmemDoubles : Fin (2 ^ 61 + 1)
  deriving DecidableEq, Repr

/-- IMEM_BYTES. -/
def Params.imemBytes (p : Params) : Nat := 4 * p.imemWords.val

/-- DMEM_BYTES. -/
def Params.dmemBytes (p : Params) : Nat := 8 * p.dmemDoubles.val

/-- The sizes the spec's own examples use, 4096 bytes each (00_scope.md R5). DESIGN CHOICE (log 7),
unsafe: the sizes in the constant `State.reset`. -/
def Params.examples : Params :=
  { imemWords := ⟨1024, by decide⟩, dmemDoubles := ⟨512, by decide⟩ }

/-- `DMEM_BUSY` where it is left open: the `k`-th of the functions of the cycle number that the
environment may present (00_scope.md R5: "OPEN parameter, a function from cycle number to boolean";
93_implementation_defined.md section 1: no constraint). It has no body, so what is proved of it is true
of every function (log 8). -/
opaque Config.dmemBusy (k : Nat) : Nat → Bool

/-- The `DMEM_BUSY` input as plain data (20_memory.md R80; log 8). -/
inductive BusySchedule where
  /-- `otherwise` in every cycle but the listed ones, and the opposite in those: a function written
  out, for runs whose port is known. -/
  | settled (listed : List Nat) (otherwise : Bool)
  /-- any function at all, `Config.dmemBusy k` -/
  | any (k : Nat)
  deriving DecidableEq, Repr

/-- DMEM_BUSY(c). -/
def BusySchedule.busy : BusySchedule → Nat → Bool
  | .settled listed otherwise, c => if listed.contains c then !otherwise else otherwise
  | .any k, c => Config.dmemBusy k c

/-- The default of 00_scope.md R5: never busy. -/
def BusySchedule.never : BusySchedule := .settled [] false

end Sys2Proof
end

