-- ==== Sys2Proof/Machine/State.lean ====
section
/-!
DEFINITION. The state of the core, as plain data (spec/10_state.md), the machine right after reset
(R57, R390), and the reasons for which a step of the model can stop.
-/

namespace Sys2Proof.Machine

/-- The five stages (00_scope.md R5). -/
inductive Stage where
  | IF | ID | EX | MEM | WB
  deriving DecidableEq, Repr

/-- A register that can be claimed: a bank and an index (10_state.md R40, `e.dst`). -/
inductive RegRef where
  | x (i : RegIdx)
  | f (i : RegIdx)
  deriving DecidableEq, Repr

/-- An in-flight entry: the instruction and its transient data (10_state.md R40). -/
structure Entry where
  /-- byte address the instruction was fetched from -/
  ia : Word
  /-- the instruction word -/
  word : IWord
  /-- `decode(e.word)`, set when the fetchHook completes (log 9) -/
  ins : Option Instr
  /-- the hook of the stage the entry occupies has completed -/
  done : Bool
  /-- first operand snapshot -/
  a : Word
  /-- second operand snapshot -/
  b : Word
  /-- third operand snapshot (MOVZ, MOVN) -/
  c : Word
  /-- destination register, none when there is none or it is `x[0]` -/
  dst : Option RegRef
  /-- this entry holds one count of the semaphore of `dst` -/
  claimed : Bool
  /-- the result to commit -/
  res : Word
  /-- `res` has been produced and may be forwarded -/
  resValid : Bool
  /-- effective address of a load or store -/
  ea : Word
  /-- the cycle in which the entry was fetched -/
  entryCycle : Nat
  deriving DecidableEq, Repr

/-- A fresh entry (10_state.md R40). -/
def Entry.fresh (ia : Word) (word : IWord) (cycle : Nat) : Entry :=
  { ia := ia, word := word, ins := none, done := false, a := 0#64, b := 0#64, c := 0#64,
    dst := none, claimed := false, res := 0#64, resValid := false, ea := 0#64,
    entryCycle := cycle }

/-- The five slots; `none` is a bubble (10_state.md R38). -/
structure Slots where
  IF : Option Entry
  ID : Option Entry
  EX : Option Entry
  MEM : Option Entry
  WB : Option Entry
  deriving DecidableEq, Repr

/-- All five slots empty. -/
def Slots.empty : Slots := { IF := none, ID := none, EX := none, MEM := none, WB := none }

/-- The four run states (10_state.md R43). -/
inductive RunState where
  | ready | running | halted | faulted
  deriving DecidableEq, Repr

/-- The fault kinds (60_exceptions.md R350). -/
inductive FaultKind where
  | alignmentFault | overflow | divideByZero | invalidOperation | underflow | addressFault
  | reservedInstruction
  deriving DecidableEq, Repr

/-- The fault record (10_state.md R44). -/
structure FaultRec where
  kind : FaultKind
  code : Nat
  ia : Word
  addr : Word
  align : Nat
  word : IWord
  deriving DecidableEq, Repr

/-- The three stall counters (10_state.md R49). -/
structure Stalls where
  raw : Nat
  waw : Nat
  structural : Nat
  deriving DecidableEq, Repr

/-- A memory: the listed cells in strictly rising address order, none of them zero; an unlisted
address reads 0 (20_memory.md R61, R81). `Memory 8` is a list of `Host.Cell`. -/
abbrev Memory (w : Nat) := List (Nat × BitVec w)

/-- The whole state of the core (10_state.md), with the open parameters and inputs of
00_scope.md R5 as plain data that no step writes. -/
structure State where
  /-- general registers (R20); cell 0 is never written and never read (R21) -/
  x : Vector Word 32
  /-- floating-point registers (R28) -/
  f : Vector Word 32
  /-- program counter (R24) -/
  pc : Word
  /-- write semaphores of the general registers (R31) -/
  semX : Vector Nat 32
  /-- write semaphores of the floating-point registers (R31) -/
  semF : Vector Nat 32
  /-- write semaphore of the program counter (R31, R35) -/
  semPc : Nat
  /-- the pipeline slots (R38) -/
  slots : Slots
  /-- the run state (R43) -/
  runState : RunState
  /-- the fault record (R44) -/
  faultRec : Option FaultRec
  /-- the configuration register (R45) -/
  cfg : Cfg
  /-- the five configuration inputs, sampled by reset (R46) -/
  cfgIn : Cfg
  /-- IF may fetch (R47) -/
  fetchEnable : Bool
  /-- accepted steps since reset (R48) -/
  cycle : Nat
  /-- stall counters (R49) -/
  stalls : Stalls
  /-- instruction memory: word at byte address (R51, 20_memory.md R61) -/
  imem : Memory 32
  /-- data memory: byte at address (R51, 20_memory.md R64) -/
  dmem : Memory 8
  /-- IMEM_BYTES and DMEM_BYTES, in words and doublewords (00_scope.md R5) -/
  params : Params
  /-- the DMEM_BUSY input, any function of the cycle (00_scope.md R5, 20_memory.md R80) -/
  dmemBusy : BusySchedule
  deriving DecidableEq, Repr

/-- Why the model stops without a next state. The machine's own faults are next states in FAULTED
(60_exceptions.md R360; log 4), so neither of these is one of them. -/
inductive Fault where
  /-- Raised by `exec` only, when no entry in the pipeline has a hook due: the spec runs a hook only
  for an entry (R397, R401). `step` never raises it. Safe. Log 2. -/
  | noHookDue
  /-- Raised by `step` when an entry past IF carries no decoded instruction. A completed fetchHook
  always sets it (R403), so no run reaches this. Safe. Log 2. -/
  | undecodedEntry
  deriving DecidableEq, Repr

/-- Calls and instructions the model turns away. -/
inductive Refusal where
  /-- Raised by an arm of `exec` whose instruction has no meaning yet. Safe. -/
  | notModelled (mnemonic : String)
  /-- `AlreadyHaltedError`: raised by `step` in HALTED and FAULTED; nothing changes
  (60_exceptions.md R364). Safe. Log 3. -/
  | alreadyHalted
  deriving DecidableEq, Repr

/-- The machine right after `reset()` (10_state.md R57): every register, semaphore and counter 0, all
slots empty, READY. The spec gives no value to the memories before the first load (log 5), the
configuration inputs (log 6), the sizes (log 7) and the port input (log 8). -/
def State.reset : State :=
  { x := Vector.replicate 32 0#64
    f := Vector.replicate 32 0#64
    pc := resetPc
    semX := Vector.replicate 32 0
    semF := Vector.replicate 32 0
    semPc := 0
    slots := Slots.empty
    runState := .ready
    faultRec := none
    cfg := Cfg.allOff
    cfgIn := Cfg.allOff
    fetchEnable := true
    cycle := 0
    stalls := { raw := 0, waw := 0, structural := 0 }
    imem := []
    dmem := []
    params := Params.examples
    dmemBusy := BusySchedule.never }

end Sys2Proof.Machine
end

