-- ==== Sys2Proof/Machine/Ops.lean ====
section
/-!
DEFINITION. The named operations on memory, registers, semaphores and slots, taking a fault
(60_exceptions.md R360) and the reset that alone ends a faulted or halted run (R359,
70_reset_and_hazards.md R390).
-/

namespace Sys2Proof.Machine

/-! ## Memory (20_memory.md) -/

/-- The value at an address: the listed one, else 0 (R61, R81). -/
def Memory.read {w : Nat} (m : Memory w) (a : Nat) : BitVec w :=
  match m with
  | [] => 0#w
  | (k, v) :: rest => if k = a then v else Memory.read rest a

/-- `v` in front of `m` at address `a`, unless it is what an unlisted address reads as. -/
def Memory.cons {w : Nat} (a : Nat) (v : BitVec w) (m : Memory w) : Memory w :=
  if v = 0#w then m else (a, v) :: m

/-- Set the value at an address, keeping the canonical form. -/
def Memory.write {w : Nat} (m : Memory w) (a : Nat) (v : BitVec w) : Memory w :=
  match m with
  | [] => Memory.cons a v []
  | (k, u) :: rest =>
    if a < k then Memory.cons a v ((k, u) :: rest)
    else if a = k then Memory.cons a v rest
    else (k, u) :: Memory.write rest a v

/-- Every listed address is above `lo`, they rise strictly, and no listed value is 0. -/
def Memory.wfAbove {w : Nat} (lo : Option Nat) (m : Memory w) : Bool :=
  match m with
  | [] => true
  | (k, v) :: rest =>
    (match lo with | none => true | some l => decide (l < k)) && v != 0#w &&
    Memory.wfAbove (some k) rest

/-- The canonical form: addresses strictly rising, no entry equal to what an unlisted address
reads as. Equal memories are equal data. -/
def Memory.wf {w : Nat} (m : Memory w) : Bool := Memory.wfAbove none m

/-- `DMEM[addr+n-1] ‖ ... ‖ DMEM[addr]` as a number: the byte at the lowest address is least
significant (R65, R66). -/
def Memory.readBytes (m : Memory 8) (addr : Nat) : Nat → Nat
  | 0 => 0
  | n + 1 => Memory.readBytes m addr n + (Memory.read m (addr + n)).toNat * 256 ^ n

/-- Byte `i` of a value: `v[8i+7 : 8i]` (R67). -/
def byteOf (v : Word) (i : Nat) : Byte := v.extractLsb' (8 * i) 8

/-- `DMEM[addr+i] <- v[8i+7 : 8i]` for `i = 0 .. n-1` (R67). -/
def Memory.writeBytes (m : Memory 8) (addr : Nat) (v : Word) : Nat → Memory 8
  | 0 => m
  | n + 1 => Memory.write (Memory.writeBytes m addr v n) (addr + n) (byteOf v n)

/-- The memory a partial map describes: listed locations at their value, all others 0 (R81). Of two
pairs with one address the later counts (log 12). -/
def Memory.ofImage {w : Nat} (image : List (Nat × BitVec w)) : Memory w :=
  image.foldl (fun m p => Memory.write m p.1 p.2) []

/-- One byte of data memory. -/
def State.dmemByte (s : State) (a : Nat) : Byte := Memory.read s.dmem a

/-- `MemRead(addr, n)` as a number below `256^n` (R66). -/
def State.memRead (s : State) (addr : Word) (n : Nat) : Nat :=
  Memory.readBytes s.dmem addr.toNat n

/-- `MemWrite(addr, n, v)` (R67). -/
def State.memWrite (s : State) (addr : Word) (n : Nat) (v : Word) : State :=
  { s with dmem := Memory.writeBytes s.dmem addr.toNat v n }

/-- `IFetch(addr)`: the word of instruction memory at a byte address (R62). -/
def State.ifetch (s : State) (addr : Word) : IWord := Memory.read s.imem addr.toNat

/-- `a mod w = 0` (R68). -/
def aligned (addr : Word) (n : Nat) : Bool := addr.toNat % n == 0

/-- `addr + n ≤ size`, as natural numbers (R63, R69). -/
def inRange (addr : Word) (n size : Nat) : Bool := decide (addr.toNat + n ≤ size)

/-- DMEM_BUSY of the current cycle (R80). -/
def State.portBusy (s : State) : Bool := s.dmemBusy.busy s.cycle

/-- The outcome of the checks of a data access, in the order of R70. -/
inductive AccessCheck where
  | misaligned | outOfRange | busy | ok
  deriving DecidableEq, Repr

/-- Alignment first, then range, then the port (R70). -/
def State.checkAccess (s : State) (addr : Word) (n : Nat) : AccessCheck :=
  if !aligned addr n then .misaligned
  else if !inRange addr n s.params.dmemBytes then .outOfRange
  else if s.portBusy then .busy
  else .ok

/-! ## Registers and semaphores (10_state.md) -/

/-- `x[i]`; `x[0]` reads 0 (R21). -/
def State.readX (s : State) (i : RegIdx) : Word := if i = 0 then 0#64 else s.x.get i

/-- `x[i] <- v`; a write to `x[0]` is discarded (R21). -/
def State.writeX (s : State) (i : RegIdx) (v : Word) : State :=
  if i = 0 then s else { s with x := s.x.set i.val v i.isLt }

/-- `f[i]` (R28). -/
def State.readF (s : State) (i : RegIdx) : Word := s.f.get i

/-- `f[i] <- v`. -/
def State.writeF (s : State) (i : RegIdx) (v : Word) : State :=
  { s with f := s.f.set i.val v i.isLt }

/-- `RF[bank, i]` (40_stage_hooks.md R124). -/
def State.readReg (s : State) : RegRef → Word
  | .x i => s.readX i
  | .f i => s.readF i

/-- `RF[bank, i] <- v` (40_stage_hooks.md R129). -/
def State.writeReg (s : State) (r : RegRef) (v : Word) : State :=
  match r with
  | .x i => s.writeX i v
  | .f i => s.writeF i v

/-- `sem[bank, i]` (R31). -/
def State.sem (s : State) : RegRef → Nat
  | .x i => s.semX.get i
  | .f i => s.semF.get i

/-- Set a semaphore. -/
def State.setSem (s : State) (r : RegRef) (n : Nat) : State :=
  match r with
  | .x i => { s with semX := s.semX.set i.val n i.isLt }
  | .f i => { s with semF := s.semF.set i.val n i.isLt }

/-- A claim: `sem[d] <- sem[d] + 1` (40_stage_hooks.md R126). -/
def State.claim (s : State) (r : RegRef) : State := s.setSem r (s.sem r + 1)

/-- A release: `sem[d] <- sem[d] - 1` (40_stage_hooks.md R129, 70_reset_and_hazards.md R405). -/
def State.release (s : State) (r : RegRef) : State := s.setSem r (s.sem r - 1)

/-! ## Slots (10_state.md R38) -/

/-- The slot of a stage. -/
def Slots.get (p : Slots) : Stage → Option Entry
  | .IF => p.IF
  | .ID => p.ID
  | .EX => p.EX
  | .MEM => p.MEM
  | .WB => p.WB

/-- Replace the slot of a stage. -/
def Slots.set (p : Slots) (st : Stage) (e : Option Entry) : Slots :=
  match st with
  | .IF => { p with IF := e }
  | .ID => { p with ID := e }
  | .EX => { p with EX := e }
  | .MEM => { p with MEM := e }
  | .WB => { p with WB := e }

/-- `slot[S]`. -/
def State.slot (s : State) (st : Stage) : Option Entry := s.slots.get st

/-- `slot[S] <- e`. -/
def State.setSlot (s : State) (st : Stage) (e : Option Entry) : State :=
  { s with slots := s.slots.set st e }

/-- The stage before a stage; IF has none (70_reset_and_hazards.md R397). -/
def Stage.before : Stage → Option Stage
  | .IF => none
  | .ID => some .IF
  | .EX => some .ID
  | .MEM => some .EX
  | .WB => some .MEM

/-- The stages that hold instructions younger than the one in a stage. -/
def Stage.younger : Stage → List Stage
  | .IF => []
  | .ID => [.IF]
  | .EX => [.ID, .IF]
  | .MEM => [.EX, .ID, .IF]
  | .WB => [.MEM, .EX, .ID, .IF]

/-- Discard the entry of one stage, releasing its claim (70_reset_and_hazards.md R405). -/
def State.squashStage (s : State) (st : Stage) : State :=
  match s.slot st with
  | none => s
  | some y =>
    match y.claimed, y.dst with
    | true, some d => (s.release d).setSlot st none
    | _, _ => s.setSlot st none

/-- Squash on a control transfer raised in stage `st`: every younger stage is flushed (R405). In this
hardware `st` is IF and the set is empty. -/
def State.squashYounger (s : State) (st : Stage) : State :=
  st.younger.foldl State.squashStage s

/-- The entry of a stage whose hook has not completed, with its stage. -/
def State.pendingAt (s : State) (st : Stage) : Option (Stage × Entry) :=
  match s.slot st with
  | none => none
  | some e => if e.done then none else some (st, e)

/-- The instruction whose hook is due: the oldest entry not done, with its stage. The step loop works
oldest first and leaves at the first hook that does not complete (70_reset_and_hazards.md R397,
R399), so within a step this is the entry of the stage the loop has reached. -/
def State.due (s : State) : Option (Stage × Entry) :=
  (s.pendingAt .WB).or <| (s.pendingAt .MEM).or <| (s.pendingAt .EX).or <|
    (s.pendingAt .ID).or (s.pendingAt .IF)

/-! ## Stalls, faults, halt, reset -/

/-- The three hazards that stall (60_exceptions.md R350). -/
inductive Hazard where
  | raw | waw | structural
  deriving DecidableEq, Repr

/-- `Stall(k)`: the counter of the hazard is incremented by 1 and nothing else changes
(10_state.md R49, 70_reset_and_hazards.md R399). -/
def State.stall (s : State) : Hazard → State
  | .raw => { s with stalls := { s.stalls with raw := s.stalls.raw + 1 } }
  | .waw => { s with stalls := { s.stalls with waw := s.stalls.waw + 1 } }
  | .structural => { s with stalls := { s.stalls with structural := s.stalls.structural + 1 } }

/-- The numeric code of a fault kind (60_exceptions.md R350). -/
def FaultKind.code : FaultKind → Nat
  | .alignmentFault => 1
  | .overflow => 2
  | .divideByZero => 3
  | .invalidOperation => 4
  | .underflow => 5
  | .addressFault => 6
  | .reservedInstruction => 7

/-- Entry to FAULTED, the one way to take a fault: the record is written, the run state becomes FAULTED
and nothing else changes (60_exceptions.md R360). -/
def State.takeFault (s : State) (kind : FaultKind) (ia addr : Word) (align : Nat)
    (word : IWord) : State :=
  { s with
    faultRec := some { kind := kind, code := kind.code, ia := ia, addr := addr, align := align,
                       word := word }
    runState := .faulted }

/-- A fault of an entry's hook that concerns no address. -/
def State.faultOf (s : State) (e : Entry) (kind : FaultKind) : State :=
  s.takeFault kind e.ia 0#64 0 e.word

/-- `Halt` (60_exceptions.md R362). -/
def State.halt (s : State) : State := { s with runState := .halted }

/-- `reset()` in any run state: every item of the table of 10_state.md R57 at its reset value, the
configuration sampled from its inputs; the memories, the parameters and the inputs stay
(70_reset_and_hazards.md R390). It is the only way out of HALTED and FAULTED: there is no return
from a fault (60_exceptions.md R359). -/
def State.resetOp (s : State) : State :=
  { State.reset with
    cfg := s.cfgIn
    cfgIn := s.cfgIn
    imem := s.imem
    dmem := s.dmem
    params := s.params
    dmemBusy := s.dmemBusy }

end Sys2Proof.Machine
end

