-- ==== Sys2Proof/Machine/Operands.lean ====
section
/-!
DEFINITION. Bit fields and extensions (00_scope.md R6 to R8), the immediates and targets
(30_encoding.md R93, 44_loadstore.md R261, 45_control.md R285, R291), and the hazard-checked,
forwarding-aware operand read (40_stage_hooks.md R124).
-/

namespace Sys2Proof.Machine

/-! ## Fields and extensions -/

/-- `writeField(bitOffset, width, value)`: replaces exactly that field (00_scope.md R8). -/
def writeField (v : Word) (off width : Nat) (value : Nat) : Word :=
  let mask : Word := (BitVec.ofNat 64 (2 ^ width - 1)) <<< off
  (v &&& ~~~mask) ||| (((BitVec.ofNat 64 value) <<< off) &&& mask)

/-- `readField(bitOffset, width)`: `v[off+width-1 : off]` as a number (00_scope.md R8). -/
def readField (v : Word) (off width : Nat) : Nat := v.toNat / 2 ^ off % 2 ^ width

/-- `s_N(v)`: the signed value of the low `N` bits (00_scope.md R6). -/
def signedLow (n : Nat) (v : Word) : Int := (v.setWidth n).toInt

/-- The unsigned value of the low `N` bits (00_scope.md R6). -/
def unsignedLow (n : Nat) (v : Word) : Nat := (v.setWidth n).toNat

/-- A value of `n` bits sign-extended to 64 (00_scope.md R7). -/
def sextFrom {n : Nat} (v : BitVec n) : Word := v.signExtend 64

/-- `sext_N(v)` of a word: bit `N-1` of its low `N` bits extended to 64 bits (00_scope.md R7). -/
def sext (n : Nat) (v : Word) : Word := sextFrom (v.setWidth n)

/-- `zext_N(v)` of a word: bits 63:N filled with zeros (00_scope.md R7). -/
def zext (n : Nat) (v : Word) : Word := (v.setWidth n).setWidth 64

/-! ## Immediates (30_encoding.md R93) -/

/-- `sext_16(imm)`. -/
def immSigned (imm : Nat) : Word := sextFrom (BitVec.ofNat 16 imm)

/-- `s_16(imm)` as an integer (42_int_imm.md R200). -/
def immInt (imm : Nat) : Int := (BitVec.ofNat 16 imm).toInt

/-- `zext_16(imm)`. -/
def immZero (imm : Nat) : Word := (BitVec.ofNat 16 imm).setWidth 64

/-- `sext_32(imm ‖ 0^16)` (LUI). -/
def immUpper (imm : Nat) : Word := sextFrom (BitVec.ofNat 16 imm ++ 0#16)

/-- The address of the next instruction, `trunc_64(e.ia + 4)` (10_state.md R26, 45_control.md R293). -/
def nextAddress (ia : Word) : Word := ia + 4#64

/-- The target of a conditional branch: `trunc_64(e.ia + 4 + sext_16(imm) * 4)` (45_control.md
R291). -/
def branchTarget (ia : Word) (imm : Nat) : Word := nextAddress ia + immSigned imm * 4#64

/-- The target of J and JAL: `(e.ia + 4)[63:28] ‖ index ‖ 00` (45_control.md R285). -/
def jumpTarget (ia : Word) (index : Nat) : Word :=
  (nextAddress ia).extractLsb' 28 36 ++ BitVec.ofNat 26 index ++ 0#2

/-- The effective address of a load or store: `trunc_64(e.a + sext_16(imm))` (44_loadstore.md
R261). -/
def effectiveAddress (base : Word) (imm : Nat) : Word := base + immSigned imm

/-- How a load extends an `8n`-bit value to 64 bits (44_loadstore.md R265). -/
inductive LoadExt where
  | signed | zero
  deriving DecidableEq, Repr

/-- The extension of a loaded value of `n` bytes (44_loadstore.md R265). -/
def LoadExt.extend (x : LoadExt) (n value : Nat) : Word :=
  match x with
  | .signed => sextFrom (BitVec.ofNat (8 * n) value)
  | .zero => (BitVec.ofNat (8 * n) value).setWidth 64

/-! ## Reading a source operand (40_stage_hooks.md R124) -/

/-- What `ReadSrc` returns. -/
inductive SrcResult where
  | value (v : Word)
  | stallRaw
  deriving DecidableEq, Repr

/-- The entry of a stage, if it has claimed the register. -/
def State.producerAt (s : State) (st : Stage) (r : RegRef) : Option Entry :=
  match s.slot st with
  | none => none
  | some p => if p.claimed && p.dst == some r then some p else none

/-- The producer the forwarding fast path finds: EX first, then MEM. -/
def State.forwarder (s : State) (r : RegRef) : Option Entry :=
  (s.producerAt .EX r).or (s.producerAt .MEM r)

/-- The generic semaphore check and the read of the register file. -/
def State.readChecked (s : State) (r : RegRef) : SrcResult :=
  if s.sem r > 0 then .stallRaw else .value (s.readReg r)

/-- `ReadSrc(bank, i)`: `x[0]` is 0 and never stalls; with forwarding a producer in EX or MEM serves
the read, or stalls it while it has no value; else the semaphore decides (R124). -/
def State.readSrc (s : State) (r : RegRef) : SrcResult :=
  if r = .x 0 then .value 0#64
  else if s.cfg.fwd then
    match s.forwarder r with
    | some p => if p.resValid then .value p.res else .stallRaw
    | none => s.readChecked r
  else s.readChecked r

/-- The sources of a hook read in order: their values, or none if one of them stalls; "the first
Stall(RAW) ends the hook" (R125, R126). -/
def State.readSources (s : State) : List RegRef → Option (List Word)
  | [] => some []
  | r :: rest =>
    match s.readSrc r with
    | .stallRaw => none
    | .value v =>
      match s.readSources rest with
      | none => none
      | some vs => some (v :: vs)

end Sys2Proof.Machine
end

