-- ==== Sys2Proof/Machine/Flags.lean ====
section
/-!
DEFINITION. The machine has no status flag (10_state.md R30); what other machines keep in flags are
here the arithmetic fault conditions: width-correct overflow (00_scope.md R9), division by zero, and
the gate through which they pass (60_exceptions.md R356).
-/

namespace Sys2Proof.Machine

/-- The four arithmetic fault kinds (60_exceptions.md R350). -/
inductive ArithKind where
  | overflow | divideByZero | invalidOperation | underflow
  deriving DecidableEq, Repr

/-- An arithmetic kind as a fault kind. -/
def ArithKind.toFaultKind : ArithKind → FaultKind
  | .overflow => .overflow
  | .divideByZero => .divideByZero
  | .invalidOperation => .invalidOperation
  | .underflow => .underflow

/-- What an operation yields: a value, or `ArithFault(kind, fallback)`. -/
inductive ArithRes where
  | value (v : Word)
  | fault (kind : ArithKind) (fallback : Word)
  deriving DecidableEq, Repr

/-- Whether the configuration masks a kind (60_exceptions.md R356). -/
def Cfg.masks (c : Cfg) : ArithKind → Bool
  | .overflow => c.maskOvf
  | .divideByZero => c.maskDz
  | .invalidOperation => c.maskInv
  | .underflow => c.maskUnf

/-- `ArithFault(kind, fallback)`: masked it yields the fallback, unmasked the fault
(60_exceptions.md R356). -/
def ArithRes.gate (c : Cfg) : ArithRes → Except FaultKind Word
  | .value v => .ok v
  | .fault k fallback => if Cfg.masks c k then .ok fallback else .error k.toFaultKind

/-- `k` is in `-2^(N-1) .. 2^(N-1)-1` (00_scope.md R9). -/
def fitsSigned (n : Nat) (k : Int) : Bool :=
  decide (-(2 ^ (n - 1) : Int) ≤ k) && decide (k ≤ (2 ^ (n - 1) : Int) - 1)

/-- `sat_N(k)` (00_scope.md R9). -/
def satSigned (n : Nat) (k : Int) : Int :=
  if k > (2 ^ (n - 1) : Int) - 1 then (2 ^ (n - 1) : Int) - 1
  else if k < -(2 ^ (n - 1) : Int) then -(2 ^ (n - 1) : Int)
  else k

/-- `trunc_N(k)` sign-extended to 64 bits. -/
def truncSext (n : Nat) (k : Int) : Word := sextFrom (BitVec.ofInt n k)

/-- An exact signed result of width `N` put into a register: truncated and sign-extended where it
fits, else Overflow with the saturated value as fallback (41_int_alu.md R183). -/
def trapOverflow (n : Nat) (k : Int) : ArithRes :=
  if fitsSigned n k then .value (truncSext n k)
  else .fault .overflow (truncSext n (satSigned n k))

/-- `add_N`, trapping (00_scope.md R9). -/
def addTrap (n : Nat) (a b : Word) : ArithRes := trapOverflow n (signedLow n a + signedLow n b)

/-- `sub_N`, trapping (00_scope.md R9). -/
def subTrap (n : Nat) (a b : Word) : ArithRes := trapOverflow n (signedLow n a - signedLow n b)

/-- A quotient or remainder: DivideByZero with the given fallback where the divisor is 0
(43_muldiv.md R238). -/
def divGuard (divisorIsZero : Bool) (fallback : Word) (v : Word) : ArithRes :=
  if divisorIsZero then .fault .divideByZero fallback else .value v

end Sys2Proof.Machine
end

