-- ==== Sys2Proof/Machine/Hooks.lean ====
section
/-!
DEFINITION. The five stage hooks common to all instructions (spec/40_stage_hooks.md) and what the
step loop does with their outcomes (spec/70_reset_and_hazards.md R397). An instruction is described
by its row of R131, a `Behaviour`; `runInstr` runs the hook that is due for it.
-/

namespace Sys2Proof.Machine

/-- What an executeHook does (R128): nothing, an effective address, or a result. -/
inductive ExAction where
  | nothing
  | address (ea : Word)
  | result (r : ArithRes)
  deriving DecidableEq, Repr

/-- What a memoryHook does (R130): nothing, a load of `n` bytes with an extension, or a store of the
low `n` bytes of `e.b`. -/
inductive MemAction where
  | nothing
  | load (n : Nat) (ext : LoadExt)
  | store (n : Nat)
  deriving DecidableEq, Repr

/-- The row of R131 of an instruction. The defaults are the hooks that do not apply, "a no-op"
(R120). -/
structure Behaviour where
  /-- the sources read in IF (control transfers) -/
  ifSources : List RegRef := []
  /-- from `e.ia` and the IF sources, the target if the transfer is taken -/
  target : Word → List Word → Option Word := fun _ _ => none
  /-- the sources read in ID, first into `e.a`, second into `e.b` -/
  idSources : List RegRef := []
  /-- the register whose old value is latched into `e.c` (MOVZ, MOVN; R127) -/
  oldOf : Option RegIdx := none
  /-- the destination, before `x[0]` is taken out -/
  dst : Option RegRef := none
  /-- the executeHook -/
  execute : Entry → ExAction := fun _ => .nothing
  /-- the memoryHook -/
  memory : MemAction := .nothing
  /-- the program-termination opcode: fetch stops at its fetchHook, Halt at its writebackHook -/
  halts : Bool := false

/-- The destination that is claimed: none for `x[0]` (R126). -/
def effectiveDst : Option RegRef → Option RegRef
  | none => none
  | some d => if d = .x 0 then none else some d

/-- `Normal`: the entry is done with its stage. -/
def State.completeAt (s : State) (st : Stage) (e : Entry) : State :=
  s.setSlot st (some { e with done := true })

/-- The fetchHook of a decoded instruction (R125) and its outcome (R397, R404): on a transfer the pc
becomes the target and younger stages are squashed, else the pc advances; a stalled read leaves
everything. HALT clears `fetch_enable` (10_state.md R47). -/
def fetchHook (i : Instr) (b : Behaviour) (e : Entry) (s : State) : State :=
  match s.readSources b.ifSources with
  | none => s.stall .raw
  | some vs =>
    let t := s.completeAt .IF { e with ins := some i }
    match b.target e.ia vs with
    | some newPc => { t.squashYounger .IF with pc := newPc }
    | none => { t with pc := nextAddress e.ia, fetchEnable := t.fetchEnable && !b.halts }

/-- The destination is still claimed by an older instruction (R126, WAW). -/
def State.wawBusy (s : State) : Option RegRef → Bool
  | none => false
  | some d => decide (s.sem d > 0)

/-- The operand snapshots (R127); a snapshot the instruction has no source for keeps its value
(log 11). -/
def latch (b : Behaviour) (vs : List Word) (s : State) (e : Entry) : Entry :=
  { e with
    a := vs.getD 0 e.a
    b := vs.getD 1 e.b
    c := match b.oldOf with
      | none => e.c
      | some r => s.readX r }

/-- The claim of the destination (R126). -/
def State.claimDst (s : State) : Option RegRef → State
  | none => s
  | some d => s.claim d

/-- The decodeHook (R126): RAW test of the sources in order, WAW test of the destination, then the
snapshots and the claim. -/
def decodeHook (b : Behaviour) (e : Entry) (s : State) : State :=
  match s.readSources b.idSources with
  | none => s.stall .raw
  | some vs =>
    let d := effectiveDst b.dst
    if s.wawBusy d then s.stall .waw
    else (s.claimDst d).completeAt .ID { latch b vs s e with dst := d, claimed := d.isSome }

/-- The executeHook (R128): the result or the effective address; an unmasked arithmetic fault is
taken (60_exceptions.md R356, R360). -/
def executeHook (b : Behaviour) (e : Entry) (s : State) : State :=
  match b.execute e with
  | .nothing => s.completeAt .EX e
  | .address ea => s.completeAt .EX { e with ea := ea }
  | .result r =>
    match r.gate s.cfg with
    | .ok v => s.completeAt .EX { e with res := v, resValid := true }
    | .error k => s.faultOf e k

/-- The checks of a data access of `n` bytes at `e.ea` (20_memory.md R70), then `access`. -/
def withAccess (n : Nat) (e : Entry) (s : State) (access : State) : State :=
  match s.checkAccess e.ea n with
  | .misaligned => s.takeFault .alignmentFault e.ia e.ea n e.word
  | .outOfRange => s.takeFault .addressFault e.ia e.ea 0 e.word
  | .busy => s.stall .structural
  | .ok => access

/-- The memoryHook (R130). -/
def memoryHook (b : Behaviour) (e : Entry) (s : State) : State :=
  match b.memory with
  | .nothing => s.completeAt .MEM e
  | .load n ext =>
    withAccess n e s
      (s.completeAt .MEM { e with res := ext.extend n (s.memRead e.ea n), resValid := true })
  | .store n => withAccess n e s ((s.memWrite e.ea n e.b).completeAt .MEM e)

/-- The commit and release of a claimed destination (R129). -/
def State.commit (s : State) (e : Entry) : State :=
  match e.claimed, e.dst with
  | true, some d => (s.writeReg d e.res).release d
  | _, _ => s

/-- The writebackHook (R129): commit and release; HALT ends the run (60_exceptions.md R362), its entry
stays in `slot[WB]` and is not marked done (R397; log 10). -/
def writebackHook (b : Behaviour) (e : Entry) (s : State) : State :=
  let e' := { e with claimed := false }
  if b.halts then (((s.commit e).setSlot .WB (some e')).halt)
  else (s.commit e).completeAt .WB e'

/-- Run the hook that is due, for instruction `i`: the meaning of an instruction is what it does in
each of its five stages (R120). -/
def runInstr (i : Instr) (b : Behaviour) (s : State) : Host.Outcome State Fault Refusal :=
  match s.due with
  | none => .fault .noHookDue
  | some (.IF, e) => .next (fetchHook i b e s)
  | some (.ID, e) => .next (decodeHook b e s)
  | some (.EX, e) => .next (executeHook b e s)
  | some (.MEM, e) => .next (memoryHook b e s)
  | some (.WB, e) => .next (writebackHook b e s)

end Sys2Proof.Machine
end

