-- ==== Sys2Proof/Machine/Control.lean ====
section
/-!
DEFINITION. The ten branches, jumps and HALT (spec/45_control.md). A control transfer does its control work in the
fetchHook (R290); only JAL and JALR do anything in later stages (R295).
-/

namespace Sys2Proof.Machine

/-- A conditional branch: sources and condition in IF, target `e.ia + 4 + sext_16(imm) * 4` (R290,
R291). Also the row of BC1EQZ and BC1NEZ (46_fpu.md R325, R326). -/
def branchRow (sources : List RegRef) (imm : Nat) (taken : List Word → Bool) : Behaviour :=
  { ifSources := sources
    target := fun ia vs => if taken vs then some (branchTarget ia imm) else none }

/-- The first source of a transfer. -/
def src0 (vs : List Word) : Word := vs.getD 0 0#64

/-- The second source of a transfer. -/
def src1 (vs : List Word) : Word := vs.getD 1 0#64

/-- A jump to a fixed target, linking into `dst` if there is one (R285, R286, R293). -/
def jumpRow (index : Nat) (dst : Option RegRef) : Behaviour :=
  { target := fun ia _ => some (jumpTarget ia index), dst := dst }

/-- A jump to a register, all 64 bits copied unchecked (R287, R294). -/
def jumpRegRow (rs : RegIdx) (dst : Option RegRef) : Behaviour :=
  { ifSources := [.x rs], target := fun _ vs => some (src0 vs), dst := dst }

/-- The link value `trunc_64(e.ia + 4)`, set in EX (R293). -/
def linking (b : Behaviour) : Behaviour :=
  { b with execute := fun e => .result (.value (nextAddress e.ia)) }

/-- The row of HALT (R289). -/
def haltRow : Behaviour := { halts := true }

/-! ## The instructions -/

/-- BEQ (R280): branch if equal. -/
def execBeq (rs rt : RegIdx) (imm : Nat) (s : State) : Host.Outcome State Fault Refusal :=
  runInstr (.beq rs rt imm) (branchRow [.x rs, .x rt] imm (fun vs => src0 vs == src1 vs)) s

/-- BNE (R281): branch if not equal. -/
def execBne (rs rt : RegIdx) (imm : Nat) (s : State) : Host.Outcome State Fault Refusal :=
  runInstr (.bne rs rt imm) (branchRow [.x rs, .x rt] imm (fun vs => src0 vs != src1 vs)) s

/-- BLEZ (R282): branch if less than or equal to zero. -/
def execBlez (rs : RegIdx) (imm : Nat) (s : State) : Host.Outcome State Fault Refusal :=
  runInstr (.blez rs imm) (branchRow [.x rs] imm (fun vs => decide ((src0 vs).toInt ≤ 0))) s

/-- BGTZ (R283): branch if greater than zero. -/
def execBgtz (rs : RegIdx) (imm : Nat) (s : State) : Host.Outcome State Fault Refusal :=
  runInstr (.bgtz rs imm) (branchRow [.x rs] imm (fun vs => decide ((src0 vs).toInt > 0))) s

/-- BGEZ (R284): branch if greater than or equal to zero. -/
def execBgez (rs : RegIdx) (imm : Nat) (s : State) : Host.Outcome State Fault Refusal :=
  runInstr (.bgez rs imm) (branchRow [.x rs] imm (fun vs => decide ((src0 vs).toInt ≥ 0))) s

/-- J (R285): jump within the current 256 MB region. -/
def execJ (index : Nat) (s : State) : Host.Outcome State Fault Refusal :=
  runInstr (.j index) (jumpRow index none) s

/-- JAL (R286): jump and link into `x[31]`. -/
def execJal (index : Nat) (s : State) : Host.Outcome State Fault Refusal :=
  runInstr (.jal index) (linking (jumpRow index (some (.x 31)))) s

/-- JR (R287): jump register. -/
def execJr (rs : RegIdx) (s : State) : Host.Outcome State Fault Refusal :=
  runInstr (.jr rs) (jumpRegRow rs none) s

/-- JALR (R288): jump and link register. -/
def execJalr (rd rs : RegIdx) (s : State) : Host.Outcome State Fault Refusal :=
  runInstr (.jalr rd rs) (linking (jumpRegRow rs (some (.x rd)))) s

/-- HALT (R289): the program-termination opcode. -/
def execHalt (s : State) : Host.Outcome State Fault Refusal :=
  runInstr .halt haltRow s

end Sys2Proof.Machine
end

