-- ==== Sys2Proof/Machine/FloatArith.lean ====
section
/-!
DEFINITION. IEEE 754-2008 binary64 arithmetic as spec/46_fpu.md section 1 defines it: the exact
result, rounded once to nearest, ties to even (R330).

A finite datum is read as its sign and its magnitude in units of 2^-1074, the smallest subnormal, so
that every finite value is a natural number and exact sums, products, quotients and comparisons are
integer arithmetic.
-/

namespace Sys2Proof.Machine

/-! ## The format (R329) -/

/-- What the 64 bits of a register mean as a binary64 datum (R329). -/
inductive FNum where
  /-- a NaN, signalling if bit 51 is clear -/
  | nan (signalling : Bool)
  | inf (neg : Bool)
  /-- a finite value: sign, and magnitude times 2^1074 -/
  | fin (neg : Bool) (mag : Nat)
  deriving DecidableEq, Repr

/-- The exponent of the unit in which magnitudes count: 1 is 2^1074 units. -/
def unitExp : Nat := 1074

/-- The number of units in 1. -/
def unitsPerOne : Nat := 2 ^ unitExp

/-- Sign bit `v[63]`. -/
def signBit (v : Word) : Bool := v.msb

/-- Reads a datum (R329): a subnormal is `fraction * 2^-1074`, a normal `(2^52 + fraction) *
2^(exponent-1075)`. -/
def classify (v : Word) : FNum :=
  let e := readField v 52 11
  let frac := readField v 0 52
  if e = 2047 then
    if frac = 0 then .inf (signBit v) else .nan (readField v 51 1 == 0)
  else if e = 0 then .fin (signBit v) frac
  else .fin (signBit v) ((2 ^ 52 + frac) * 2 ^ (e - 1))

/-- The canonical quiet NaN (R331). -/
def canonicalNaN : Word := 0x7FF8000000000000#64

/-- The sign bit with 63 given lower bits. -/
def withSign (neg : Bool) (low : Nat) : Word :=
  BitVec.ofNat 64 ((if neg then 2 ^ 63 else 0) + low)

/-- Infinity of a sign. -/
def infinity (neg : Bool) : Word := withSign neg (2047 * 2 ^ 52)

/-- Zero of a sign. -/
def signedZero (neg : Bool) : Word := withSign neg 0

/-- Whether a datum is a NaN. -/
def FNum.isNaN : FNum → Bool
  | .nan _ => true
  | _ => false

/-- Whether a datum is a signalling NaN. -/
def FNum.isSignalling : FNum → Bool
  | .nan s => s
  | _ => false

/-! ## Rounding (R330, R332) -/

/-- `n / d` rounded to the nearest integer, ties to even. -/
def roundDiv (n d : Nat) : Nat :=
  let q := n / d
  let r := n % d
  if 2 * r < d then q else if 2 * r > d then q + 1 else q + q % 2

/-- The numerator of `(n/d) / 2^q` over `scaleDen`. -/
def scaleNum (n : Nat) (q : Int) : Nat := if q < 0 then n * 2 ^ (-q).toNat else n

/-- The denominator of `(n/d) / 2^q` under `scaleNum`. -/
def scaleDen (d : Nat) (q : Int) : Nat := if q < 0 then d else d * 2 ^ q.toNat

/-- `n/d` in units of `2^q`, rounded to nearest even. -/
def roundAt (n d : Nat) (q : Int) : Nat := roundDiv (scaleNum n q) (scaleDen d q)

/-- `n/d` is a whole number of units of `2^q`. -/
def exactAt (n d : Nat) (q : Int) : Bool := scaleNum n q % scaleDen d q == 0

/-- `floor(log2(n/d))` for positive `n` and `d`. -/
def floorLog2 (n d : Nat) : Int :=
  let k : Int := (n.log2 : Int) - (d.log2 : Int)
  if scaleDen d k ≤ scaleNum n k then k else k - 1

/-- The smallest exponent of a unit in the last place: subnormals are multiples of 2^-1074. -/
def minUnit : Int := -1074

/-- The unit in the last place of a 53-bit significand of `n/d`, exponent range unbounded. -/
def unboundedUnit (n d : Nat) : Int := floorLog2 n d - 52

/-- `m * 2^q` exceeds the largest finite magnitude `(2^53 - 1) * 2^971` (R332, Overflow). -/
def exceedsLargest (m : Nat) (q : Int) : Bool :=
  decide (971 ≤ q) && decide (2 ^ 53 - 1 < m * 2 ^ (q - 971).toNat)

/-- `m * 2^q` is below 2^-1022 (R332, Underflow: tiny). -/
def belowSmallestNormal (m : Nat) (q : Int) : Bool :=
  decide (q < minUnit) && decide (m < 2 ^ (-1022 - q).toNat)

/-- The encoding of `m * 2^q` with `q ≥ -1074` and `m ≤ 2^53`, where `m < 2^52` only for `q = -1074`:
`exponent - 1 = q + 1074` above the significand with its hidden bit (R329). -/
def packFinite (neg : Bool) (m : Nat) (q : Int) : Word :=
  withSign neg ((q - minUnit).toNat * 2 ^ 52 + m)

/-- The exact non-zero result `±n/d` delivered: rounded once to nearest even, with Overflow and
Underflow detected after rounding as if the exponent range were unbounded (R330, R332, R333). -/
def deliver (neg : Bool) (n d : Nat) : ArithRes :=
  let qU := unboundedUnit n d
  let mU := roundAt n d qU
  if exceedsLargest mU qU then .fault .overflow (infinity neg)
  else
    let q := max qU minUnit
    let v := packFinite neg (roundAt n d q) q
    if belowSmallestNormal mU qU && !exactAt n d q then .fault .underflow v else .value v

/-- An exact result `±n/d` that may be zero; a zero takes the given sign (R334). -/
def deliverOrZero (neg : Bool) (n d : Nat) : ArithRes :=
  if n = 0 then .value (signedZero neg) else deliver neg n d

/-! ## Arithmetic (R310 to R313, R331, R332, R334) -/

/-- InvalidOperation of an arithmetic instruction: the fallback is the canonical quiet NaN (R333). -/
def invalidArith : ArithRes := .fault .invalidOperation canonicalNaN

/-- The signed value of a finite datum in units. -/
def signedUnits (neg : Bool) (mag : Nat) : Int := if neg then -(mag : Int) else (mag : Int)

/-- The sum of two finite data: exact, a zero sum is -0 only if both operands are negative (R334). -/
def addFinite (na : Bool) (ma : Nat) (nb : Bool) (mb : Nat) : ArithRes :=
  let k := signedUnits na ma + signedUnits nb mb
  if k = 0 then .value (signedZero (na && nb)) else deliver (decide (k < 0)) k.natAbs unitsPerOne

/-- ADD.D (R310). -/
def addNum (x y : FNum) : ArithRes :=
  if x.isSignalling || y.isSignalling then invalidArith
  else match x, y with
    | .nan _, _ => .value canonicalNaN
    | _, .nan _ => .value canonicalNaN
    | .inf na, .inf nb => if na = nb then .value (infinity na) else invalidArith
    | .inf na, .fin _ _ => .value (infinity na)
    | .fin _ _, .inf nb => .value (infinity nb)
    | .fin na ma, .fin nb mb => addFinite na ma nb mb

/-- MUL.D (R312). -/
def mulNum (x y : FNum) : ArithRes :=
  if x.isSignalling || y.isSignalling then invalidArith
  else match x, y with
    | .nan _, _ => .value canonicalNaN
    | _, .nan _ => .value canonicalNaN
    | .inf na, .inf nb => .value (infinity (na != nb))
    | .inf na, .fin nb mb => if mb = 0 then invalidArith else .value (infinity (na != nb))
    | .fin na ma, .inf nb => if ma = 0 then invalidArith else .value (infinity (na != nb))
    | .fin na ma, .fin nb mb => deliverOrZero (na != nb) (ma * mb) (unitsPerOne * unitsPerOne)

/-- DIV.D (R313): `0/0` and `inf/inf` are invalid, a finite non-zero over zero is DivideByZero with
the signed infinity as fallback, `inf/0` is infinity without a fault (R332, R334). -/
def divNum (x y : FNum) : ArithRes :=
  if x.isSignalling || y.isSignalling then invalidArith
  else match x, y with
    | .nan _, _ => .value canonicalNaN
    | _, .nan _ => .value canonicalNaN
    | .inf _, .inf _ => invalidArith
    | .inf na, .fin nb _ => .value (infinity (na != nb))
    | .fin na _, .inf nb => .value (signedZero (na != nb))
    | .fin na ma, .fin nb mb =>
      if mb = 0 then
        if ma = 0 then invalidArith else .fault .divideByZero (infinity (na != nb))
      else deliverOrZero (na != nb) ma mb

/-- NEG.D: bit 63 inverted (R316, R335). -/
def negBits (v : Word) : Word := writeField v 63 1 (if signBit v then 0 else 1)

/-- ABS.D: bit 63 cleared (R314, R335). -/
def absBits (v : Word) : Word := writeField v 63 1 0

/-- `fadd` on bit patterns (R310). -/
def fadd (a b : Word) : ArithRes := addNum (classify a) (classify b)

/-- Subtraction: addition with bit 63 of the second operand inverted (R311). -/
def fsub (a b : Word) : ArithRes := addNum (classify a) (classify (negBits b))

/-- `fmul` on bit patterns (R312). -/
def fmul (a b : Word) : ArithRes := mulNum (classify a) (classify b)

/-- `fdiv` on bit patterns (R313). -/
def fdiv (a b : Word) : ArithRes := divNum (classify a) (classify b)

/-! ## Conversions (R317, R318) -/

/-- InvalidOperation of CVT.L.D (R317, R333). -/
def invalidToLong : ArithRes := .fault .invalidOperation 0x7FFFFFFFFFFFFFFF#64

/-- CVT.L.D: round to an integer, nearest even; a NaN, an infinity or an integer out of range is
InvalidOperation; inexactness is not reported (R317). -/
def toLong (v : Word) : ArithRes :=
  match classify v with
  | .nan _ => invalidToLong
  | .inf _ => invalidToLong
  | .fin neg mag =>
    let k := signedUnits neg (roundDiv mag unitsPerOne)
    if fitsSigned 64 k then .value (BitVec.ofInt 64 k) else invalidToLong

/-- CVT.D.L: the signed integer rounded; never a fault, 0 gives +0 (R318). -/
def ofLong (v : Word) : ArithRes := deliverOrZero (decide (v.toInt < 0)) v.toInt.natAbs 1

/-! ## Compare (R319 to R322) -/

/-- The value of a datum that is not a NaN as a comparable integer: infinities are the extreme values,
-0 and +0 are equal. Finite magnitudes are below 2^2098 units. -/
def orderKey : FNum → Int
  | .nan _ => 0
  | .inf neg => signedUnits neg (2 ^ 2098)
  | .fin neg mag => signedUnits neg mag

/-- A compare: `unordered` if an operand is a NaN, else the relation; a signalling NaN raises
InvalidOperation with the unordered answer as fallback (R332, R333). -/
def compareNum (unordered : Bool) (rel : Int → Int → Bool) (x y : FNum) : ArithRes :=
  if x.isSignalling || y.isSignalling then .fault .invalidOperation (maskWord unordered)
  else if x.isNaN || y.isNaN then .value (maskWord unordered)
  else .value (maskWord (rel (orderKey x) (orderKey y)))

/-- CMP.UN.D (R319). -/
def cmpUn (a b : Word) : ArithRes := compareNum true (fun _ _ => false) (classify a) (classify b)

/-- CMP.EQ.D (R320). -/
def cmpEq (a b : Word) : ArithRes :=
  compareNum false (fun p q => decide (p = q)) (classify a) (classify b)

/-- CMP.LT.D (R321). -/
def cmpLt (a b : Word) : ArithRes :=
  compareNum false (fun p q => decide (p < q)) (classify a) (classify b)

/-- CMP.LE.D (R322). -/
def cmpLe (a b : Word) : ArithRes :=
  compareNum false (fun p q => decide (p ≤ q)) (classify a) (classify b)

end Sys2Proof.Machine
end

