-- ==== Sys2Proof/Machine/LoadStore.lean ====
section
/-!
DEFINITION. The eleven load and store instructions (spec/44_loadstore.md).
-/

namespace Sys2Proof.Machine

/-- A load of `n` bytes into `dst` (R261, R262): base `x[rs]`, effective address in EX, access in MEM.
Also the row of LDC1 (46_fpu.md R327). -/
def loadRow (dst : RegRef) (imm : Nat) (rs : RegIdx) (n : Nat) (ext : LoadExt) : Behaviour :=
  { idSources := [.x rs], dst := some dst
    execute := fun e => .address (effectiveAddress e.a imm)
    memory := .load n ext }

/-- A store of the low `n` bytes of `data` (R261, R263): base `x[rs]` and data read in ID, no
destination. Also the row of SDC1 (46_fpu.md R328). -/
def storeRow (data : RegRef) (imm : Nat) (rs : RegIdx) (n : Nat) : Behaviour :=
  { idSources := [.x rs, data]
    execute := fun e => .address (effectiveAddress e.a imm)
    memory := .store n }

/-! ## The instructions -/

/-- LB (R250): load byte, sign-extended. -/
def execLb (rt : RegIdx) (imm : Nat) (rs : RegIdx) (s : State) :
    Host.Outcome State Fault Refusal :=
  runInstr (.lb rt imm rs) (loadRow (.x rt) imm rs 1 .signed) s

/-- LBU (R251): load byte, zero-extended. -/
def execLbu (rt : RegIdx) (imm : Nat) (rs : RegIdx) (s : State) :
    Host.Outcome State Fault Refusal :=
  runInstr (.lbu rt imm rs) (loadRow (.x rt) imm rs 1 .zero) s

/-- LH (R252): load halfword, sign-extended. -/
def execLh (rt : RegIdx) (imm : Nat) (rs : RegIdx) (s : State) :
    Host.Outcome State Fault Refusal :=
  runInstr (.lh rt imm rs) (loadRow (.x rt) imm rs 2 .signed) s

/-- LHU (R253): load halfword, zero-extended. -/
def execLhu (rt : RegIdx) (imm : Nat) (rs : RegIdx) (s : State) :
    Host.Outcome State Fault Refusal :=
  runInstr (.lhu rt imm rs) (loadRow (.x rt) imm rs 2 .zero) s

/-- LW (R254): load word, sign-extended. -/
def execLw (rt : RegIdx) (imm : Nat) (rs : RegIdx) (s : State) :
    Host.Outcome State Fault Refusal :=
  runInstr (.lw rt imm rs) (loadRow (.x rt) imm rs 4 .signed) s

/-- LWU (R255): load word, zero-extended. -/
def execLwu (rt : RegIdx) (imm : Nat) (rs : RegIdx) (s : State) :
    Host.Outcome State Fault Refusal :=
  runInstr (.lwu rt imm rs) (loadRow (.x rt) imm rs 4 .zero) s

/-- LD (R256): load doubleword. -/
def execLd (rt : RegIdx) (imm : Nat) (rs : RegIdx) (s : State) :
    Host.Outcome State Fault Refusal :=
  runInstr (.ld rt imm rs) (loadRow (.x rt) imm rs 8 .zero) s

/-- SB (R257): store byte. -/
def execSb (rt : RegIdx) (imm : Nat) (rs : RegIdx) (s : State) :
    Host.Outcome State Fault Refusal :=
  runInstr (.sb rt imm rs) (storeRow (.x rt) imm rs 1) s

/-- SH (R258): store halfword. -/
def execSh (rt : RegIdx) (imm : Nat) (rs : RegIdx) (s : State) :
    Host.Outcome State Fault Refusal :=
  runInstr (.sh rt imm rs) (storeRow (.x rt) imm rs 2) s

/-- SW (R259): store word. -/
def execSw (rt : RegIdx) (imm : Nat) (rs : RegIdx) (s : State) :
    Host.Outcome State Fault Refusal :=
  runInstr (.sw rt imm rs) (storeRow (.x rt) imm rs 4) s

/-- SD (R260): store doubleword. -/
def execSd (rt : RegIdx) (imm : Nat) (rs : RegIdx) (s : State) :
    Host.Outcome State Fault Refusal :=
  runInstr (.sd rt imm rs) (storeRow (.x rt) imm rs 8) s

end Sys2Proof.Machine
end

