-- ==== Sys2Proof/Machine/Fpu.lean ====
section
/-!
DEFINITION. The nineteen floating-point instructions (spec/46_fpu.md).
-/

namespace Sys2Proof.Machine

/-- Two floating-point sources `f[fs]`, `f[ft]`, destination `f[fd]`. -/
def fpuRow3 (fd fs ft : RegIdx) (op : Word → Word → ArithRes) : Behaviour :=
  { idSources := [.f fs, .f ft], dst := some (.f fd), execute := fun e => .result (op e.a e.b) }

/-- One floating-point source `f[fs]`, destination `f[fd]`. -/
def fpuRow2 (fd fs : RegIdx) (op : Word → ArithRes) : Behaviour :=
  { idSources := [.f fs], dst := some (.f fd), execute := fun e => .result (op e.a) }

/-- A move of all 64 bits between the banks (R323, R324). -/
def moveRow (dst src : RegRef) : Behaviour :=
  { idSources := [src], dst := some dst, execute := fun e => .result (.value e.a) }

/-- ABS.D: bit 63 cleared (R314). -/
def absOp (a : Word) : ArithRes := .value (absBits a)

/-- MOV.D: the bits copied (R315). -/
def movOp (a : Word) : ArithRes := .value a

/-- NEG.D: bit 63 inverted (R316). -/
def negOp (a : Word) : ArithRes := .value (negBits a)

/-! ## The instructions -/

/-- ADD.D (R310): sum. -/
def execAddD (fd fs ft : RegIdx) (s : State) : Host.Outcome State Fault Refusal :=
  runInstr (.addD fd fs ft) (fpuRow3 fd fs ft fadd) s

/-- SUB.D (R311): difference. -/
def execSubD (fd fs ft : RegIdx) (s : State) : Host.Outcome State Fault Refusal :=
  runInstr (.subD fd fs ft) (fpuRow3 fd fs ft fsub) s

/-- MUL.D (R312): product. -/
def execMulD (fd fs ft : RegIdx) (s : State) : Host.Outcome State Fault Refusal :=
  runInstr (.mulD fd fs ft) (fpuRow3 fd fs ft fmul) s

/-- DIV.D (R313): quotient. -/
def execDivD (fd fs ft : RegIdx) (s : State) : Host.Outcome State Fault Refusal :=
  runInstr (.divD fd fs ft) (fpuRow3 fd fs ft fdiv) s

/-- ABS.D (R314): sign bit cleared. -/
def execAbsD (fd fs : RegIdx) (s : State) : Host.Outcome State Fault Refusal :=
  runInstr (.absD fd fs) (fpuRow2 fd fs absOp) s

/-- MOV.D (R315): bits copied. -/
def execMovD (fd fs : RegIdx) (s : State) : Host.Outcome State Fault Refusal :=
  runInstr (.movD fd fs) (fpuRow2 fd fs movOp) s

/-- NEG.D (R316): sign bit inverted. -/
def execNegD (fd fs : RegIdx) (s : State) : Host.Outcome State Fault Refusal :=
  runInstr (.negD fd fs) (fpuRow2 fd fs negOp) s

/-- CVT.L.D (R317): to a signed 64-bit integer. -/
def execCvtLD (fd fs : RegIdx) (s : State) : Host.Outcome State Fault Refusal :=
  runInstr (.cvtLD fd fs) (fpuRow2 fd fs toLong) s

/-- CVT.D.L (R318): from a signed 64-bit integer. -/
def execCvtDL (fd fs : RegIdx) (s : State) : Host.Outcome State Fault Refusal :=
  runInstr (.cvtDL fd fs) (fpuRow2 fd fs ofLong) s

/-- CMP.UN.D (R319): true iff unordered. -/
def execCmpUnD (fd fs ft : RegIdx) (s : State) : Host.Outcome State Fault Refusal :=
  runInstr (.cmpUnD fd fs ft) (fpuRow3 fd fs ft cmpUn) s

/-- CMP.EQ.D (R320): true iff ordered and equal. -/
def execCmpEqD (fd fs ft : RegIdx) (s : State) : Host.Outcome State Fault Refusal :=
  runInstr (.cmpEqD fd fs ft) (fpuRow3 fd fs ft cmpEq) s

/-- CMP.LT.D (R321): true iff ordered and less. -/
def execCmpLtD (fd fs ft : RegIdx) (s : State) : Host.Outcome State Fault Refusal :=
  runInstr (.cmpLtD fd fs ft) (fpuRow3 fd fs ft cmpLt) s

/-- CMP.LE.D (R322): true iff ordered and less or equal. -/
def execCmpLeD (fd fs ft : RegIdx) (s : State) : Host.Outcome State Fault Refusal :=
  runInstr (.cmpLeD fd fs ft) (fpuRow3 fd fs ft cmpLe) s

/-- DMFC1 (R323): `x[rt] <- f[fs]`. -/
def execDmfc1 (rt fs : RegIdx) (s : State) : Host.Outcome State Fault Refusal :=
  runInstr (.dmfc1 rt fs) (moveRow (.x rt) (.f fs)) s

/-- DMTC1 (R324): `f[fs] <- x[rt]`. -/
def execDmtc1 (rt fs : RegIdx) (s : State) : Host.Outcome State Fault Refusal :=
  runInstr (.dmtc1 rt fs) (moveRow (.f fs) (.x rt)) s

/-- BC1EQZ (R325): branch if bit 0 of `f[ft]` is 0. -/
def execBc1eqz (ft : RegIdx) (imm : Nat) (s : State) : Host.Outcome State Fault Refusal :=
  runInstr (.bc1eqz ft imm) (branchRow [.f ft] imm (fun vs => !(src0 vs).getLsbD 0)) s

/-- BC1NEZ (R326): branch if bit 0 of `f[ft]` is 1. -/
def execBc1nez (ft : RegIdx) (imm : Nat) (s : State) : Host.Outcome State Fault Refusal :=
  runInstr (.bc1nez ft imm) (branchRow [.f ft] imm (fun vs => (src0 vs).getLsbD 0)) s

/-- LDC1 (R327): load doubleword into `f[ft]`. -/
def execLdc1 (ft : RegIdx) (imm : Nat) (rs : RegIdx) (s : State) :
    Host.Outcome State Fault Refusal :=
  runInstr (.ldc1 ft imm rs) (loadRow (.f ft) imm rs 8 .zero) s

/-- SDC1 (R328): store `f[ft]` as a doubleword. -/
def execSdc1 (ft : RegIdx) (imm : Nat) (rs : RegIdx) (s : State) :
    Host.Outcome State Fault Refusal :=
  runInstr (.sdc1 ft imm rs) (storeRow (.f ft) imm rs 8) s

end Sys2Proof.Machine
end

