-- ==== Sys2Proof/Machine/IntAlu.lean ====
section
/-!
DEFINITION. The 31 integer register-register instructions (spec/41_int_alu.md). Each meaning is the
instruction's row of 40_stage_hooks.md R131 with its EX computation.
-/

namespace Sys2Proof.Machine

/-! ## EX computations -/

/-- ADDU: `sext_32(trunc_32(e.a + e.b))` (R151). -/
def addWrap32 (a b : Word) : ArithRes := .value (sext 32 (a + b))

/-- SUBU: `sext_32(trunc_32(e.a - e.b))` (R153). -/
def subWrap32 (a b : Word) : ArithRes := .value (sext 32 (a - b))

/-- DADDU: `trunc_64(e.a + e.b)` (R155). -/
def addWrap64 (a b : Word) : ArithRes := .value (a + b)

/-- DSUBU: `trunc_64(e.a - e.b)` (R157). -/
def subWrap64 (a b : Word) : ArithRes := .value (a - b)

/-- AND (R158). -/
def andOp (a b : Word) : ArithRes := .value (a &&& b)

/-- OR (R159). -/
def orOp (a b : Word) : ArithRes := .value (a ||| b)

/-- XOR (R160). -/
def xorOp (a b : Word) : ArithRes := .value (a ^^^ b)

/-- NOR (R161). -/
def norOp (a b : Word) : ArithRes := .value (~~~(a ||| b))

/-- SLT: 1 if `s_64(a) < s_64(b)` else 0 (R162). -/
def sltOp (a b : Word) : ArithRes := .value (flagWord (decide (a.toInt < b.toInt)))

/-- SLTU: 1 if `u(a) < u(b)` else 0 (R163). -/
def sltuOp (a b : Word) : ArithRes := .value (flagWord (decide (a.toNat < b.toNat)))

/-- 32-bit shift left logical of the low half, sign-extended (R164, R181). -/
def sll32 (n : Nat) (v : Word) : ArithRes := .value (sextFrom (v.setWidth 32 <<< n))

/-- 32-bit shift right logical of the low half, sign-extended (R165, R181). -/
def srl32 (n : Nat) (v : Word) : ArithRes := .value (sextFrom (v.setWidth 32 >>> n))

/-- 32-bit shift right arithmetic of the low half, sign-extended (R166, R181). -/
def sra32 (n : Nat) (v : Word) : ArithRes := .value (sextFrom ((v.setWidth 32).sshiftRight n))

/-- 64-bit shift left logical (R167, R170, R176). -/
def sll64 (n : Nat) (v : Word) : ArithRes := .value (v <<< n)

/-- 64-bit shift right logical (R168, R171, R177). -/
def srl64 (n : Nat) (v : Word) : ArithRes := .value (v >>> n)

/-- 64-bit shift right arithmetic (R169, R172, R178). -/
def sra64 (n : Nat) (v : Word) : ArithRes := .value (v.sshiftRight n)

/-! ## The rows of R131 -/

/-- Two register sources, one register destination, `op` of the two snapshots. Also the row of the
multiply and divide instructions. -/
def regReg (rd rs rt : RegIdx) (op : Word → Word → ArithRes) : Behaviour :=
  { idSources := [.x rs, .x rt], dst := some (.x rd), execute := fun e => .result (op e.a e.b) }

/-- Shifts by an immediate amount: the one source is `x[rt]`. -/
def shiftImm (rd rt : RegIdx) (op : Word → ArithRes) : Behaviour :=
  { idSources := [.x rt], dst := some (.x rd), execute := fun e => .result (op e.a) }

/-- Shifts by a register amount: `x[rs]` is the amount, of which the low `bits` bits count (R182),
`x[rt]` the value. -/
def shiftReg (rd rt rs : RegIdx) (bits : Nat) (op : Nat → Word → ArithRes) : Behaviour :=
  { idSources := [.x rs, .x rt], dst := some (.x rd)
    execute := fun e => .result (op (unsignedLow bits e.a) e.b) }

/-- Conditional moves: always claim and write `x[rd]`, with its old value if the condition on `e.b`
fails (R179, R180). -/
def condMove (rd rs rt : RegIdx) (cond : Word → Bool) : Behaviour :=
  { idSources := [.x rs, .x rt], oldOf := some rd, dst := some (.x rd)
    execute := fun e => .result (.value (if cond e.b then e.a else e.c)) }

/-! ## The instructions -/

/-- ADD (R150): 32-bit signed add, trapping. -/
def execAdd (rd rs rt : RegIdx) (s : State) : Host.Outcome State Fault Refusal :=
  runInstr (.add rd rs rt) (regReg rd rs rt (addTrap 32)) s

/-- ADDU (R151): 32-bit add, wrapping. -/
def execAddu (rd rs rt : RegIdx) (s : State) : Host.Outcome State Fault Refusal :=
  runInstr (.addu rd rs rt) (regReg rd rs rt addWrap32) s

/-- SUB (R152): 32-bit signed subtract, trapping. -/
def execSub (rd rs rt : RegIdx) (s : State) : Host.Outcome State Fault Refusal :=
  runInstr (.sub rd rs rt) (regReg rd rs rt (subTrap 32)) s

/-- SUBU (R153): 32-bit subtract, wrapping. -/
def execSubu (rd rs rt : RegIdx) (s : State) : Host.Outcome State Fault Refusal :=
  runInstr (.subu rd rs rt) (regReg rd rs rt subWrap32) s

/-- DADD (R154): 64-bit signed add, trapping. -/
def execDadd (rd rs rt : RegIdx) (s : State) : Host.Outcome State Fault Refusal :=
  runInstr (.dadd rd rs rt) (regReg rd rs rt (addTrap 64)) s

/-- DADDU (R155): 64-bit add, wrapping. -/
def execDaddu (rd rs rt : RegIdx) (s : State) : Host.Outcome State Fault Refusal :=
  runInstr (.daddu rd rs rt) (regReg rd rs rt addWrap64) s

/-- DSUB (R156): 64-bit signed subtract, trapping. -/
def execDsub (rd rs rt : RegIdx) (s : State) : Host.Outcome State Fault Refusal :=
  runInstr (.dsub rd rs rt) (regReg rd rs rt (subTrap 64)) s

/-- DSUBU (R157): 64-bit subtract, wrapping. -/
def execDsubu (rd rs rt : RegIdx) (s : State) : Host.Outcome State Fault Refusal :=
  runInstr (.dsubu rd rs rt) (regReg rd rs rt subWrap64) s

/-- AND (R158): bitwise and of all 64 bits. -/
def execAnd (rd rs rt : RegIdx) (s : State) : Host.Outcome State Fault Refusal :=
  runInstr (.and rd rs rt) (regReg rd rs rt andOp) s

/-- OR (R159): bitwise or of all 64 bits. -/
def execOr (rd rs rt : RegIdx) (s : State) : Host.Outcome State Fault Refusal :=
  runInstr (.or rd rs rt) (regReg rd rs rt orOp) s

/-- XOR (R160): bitwise exclusive or of all 64 bits. -/
def execXor (rd rs rt : RegIdx) (s : State) : Host.Outcome State Fault Refusal :=
  runInstr (.xor rd rs rt) (regReg rd rs rt xorOp) s

/-- NOR (R161): bitwise not-or of all 64 bits. -/
def execNor (rd rs rt : RegIdx) (s : State) : Host.Outcome State Fault Refusal :=
  runInstr (.nor rd rs rt) (regReg rd rs rt norOp) s

/-- SLT (R162): signed 64-bit compare. -/
def execSlt (rd rs rt : RegIdx) (s : State) : Host.Outcome State Fault Refusal :=
  runInstr (.slt rd rs rt) (regReg rd rs rt sltOp) s

/-- SLTU (R163): unsigned 64-bit compare. -/
def execSltu (rd rs rt : RegIdx) (s : State) : Host.Outcome State Fault Refusal :=
  runInstr (.sltu rd rs rt) (regReg rd rs rt sltuOp) s

/-- SLL (R164): 32-bit shift left logical by `sa`. -/
def execSll (rd rt : RegIdx) (sa : Nat) (s : State) : Host.Outcome State Fault Refusal :=
  runInstr (.sll rd rt sa) (shiftImm rd rt (sll32 sa)) s

/-- SRL (R165): 32-bit shift right logical by `sa`. -/
def execSrl (rd rt : RegIdx) (sa : Nat) (s : State) : Host.Outcome State Fault Refusal :=
  runInstr (.srl rd rt sa) (shiftImm rd rt (srl32 sa)) s

/-- SRA (R166): 32-bit shift right arithmetic by `sa`. -/
def execSra (rd rt : RegIdx) (sa : Nat) (s : State) : Host.Outcome State Fault Refusal :=
  runInstr (.sra rd rt sa) (shiftImm rd rt (sra32 sa)) s

/-- DSLL (R167): 64-bit shift left logical by `sa`. -/
def execDsll (rd rt : RegIdx) (sa : Nat) (s : State) : Host.Outcome State Fault Refusal :=
  runInstr (.dsll rd rt sa) (shiftImm rd rt (sll64 sa)) s

/-- DSRL (R168): 64-bit shift right logical by `sa`. -/
def execDsrl (rd rt : RegIdx) (sa : Nat) (s : State) : Host.Outcome State Fault Refusal :=
  runInstr (.dsrl rd rt sa) (shiftImm rd rt (srl64 sa)) s

/-- DSRA (R169): 64-bit shift right arithmetic by `sa`. -/
def execDsra (rd rt : RegIdx) (sa : Nat) (s : State) : Host.Outcome State Fault Refusal :=
  runInstr (.dsra rd rt sa) (shiftImm rd rt (sra64 sa)) s

/-- DSLL32 (R170): 64-bit shift left logical by `sa + 32`. -/
def execDsll32 (rd rt : RegIdx) (sa : Nat) (s : State) : Host.Outcome State Fault Refusal :=
  runInstr (.dsll32 rd rt sa) (shiftImm rd rt (sll64 (sa + 32))) s

/-- DSRL32 (R171): 64-bit shift right logical by `sa + 32`. -/
def execDsrl32 (rd rt : RegIdx) (sa : Nat) (s : State) : Host.Outcome State Fault Refusal :=
  runInstr (.dsrl32 rd rt sa) (shiftImm rd rt (srl64 (sa + 32))) s

/-- DSRA32 (R172): 64-bit shift right arithmetic by `sa + 32`. -/
def execDsra32 (rd rt : RegIdx) (sa : Nat) (s : State) : Host.Outcome State Fault Refusal :=
  runInstr (.dsra32 rd rt sa) (shiftImm rd rt (sra64 (sa + 32))) s

/-- SLLV (R173): 32-bit shift left logical by `x[rs][4:0]`. -/
def execSllv (rd rt rs : RegIdx) (s : State) : Host.Outcome State Fault Refusal :=
  runInstr (.sllv rd rt rs) (shiftReg rd rt rs 5 sll32) s

/-- SRLV (R174): 32-bit shift right logical by `x[rs][4:0]`. -/
def execSrlv (rd rt rs : RegIdx) (s : State) : Host.Outcome State Fault Refusal :=
  runInstr (.srlv rd rt rs) (shiftReg rd rt rs 5 srl32) s

/-- SRAV (R175): 32-bit shift right arithmetic by `x[rs][4:0]`. -/
def execSrav (rd rt rs : RegIdx) (s : State) : Host.Outcome State Fault Refusal :=
  runInstr (.srav rd rt rs) (shiftReg rd rt rs 5 sra32) s

/-- DSLLV (R176): 64-bit shift left logical by `x[rs][5:0]`. -/
def execDsllv (rd rt rs : RegIdx) (s : State) : Host.Outcome State Fault Refusal :=
  runInstr (.dsllv rd rt rs) (shiftReg rd rt rs 6 sll64) s

/-- DSRLV (R177): 64-bit shift right logical by `x[rs][5:0]`. -/
def execDsrlv (rd rt rs : RegIdx) (s : State) : Host.Outcome State Fault Refusal :=
  runInstr (.dsrlv rd rt rs) (shiftReg rd rt rs 6 srl64) s

/-- DSRAV (R178): 64-bit shift right arithmetic by `x[rs][5:0]`. -/
def execDsrav (rd rt rs : RegIdx) (s : State) : Host.Outcome State Fault Refusal :=
  runInstr (.dsrav rd rt rs) (shiftReg rd rt rs 6 sra64) s

/-- MOVZ (R179): `x[rd] <- x[rs]` if `x[rt] = 0`, else the old value is written back. -/
def execMovz (rd rs rt : RegIdx) (s : State) : Host.Outcome State Fault Refusal :=
  runInstr (.movz rd rs rt) (condMove rd rs rt (fun b => b == 0#64)) s

/-- MOVN (R180): `x[rd] <- x[rs]` if `x[rt] ≠ 0`, else the old value is written back. -/
def execMovn (rd rs rt : RegIdx) (s : State) : Host.Outcome State Fault Refusal :=
  runInstr (.movn rd rs rt) (condMove rd rs rt (fun b => b != 0#64)) s

end Sys2Proof.Machine
end

