-- ==== Sys2Proof/Machine/IntImm.lean ====
section
/-!
DEFINITION. The ten integer immediate instructions (spec/42_int_imm.md).
-/

namespace Sys2Proof.Machine

/-- ADDI, DADDI: the exact sum of the operand at width `n` and `s_16(imm)`, trapping (R200, R202). -/
def addImmTrap (n imm : Nat) (a : Word) : ArithRes := trapOverflow n (signedLow n a + immInt imm)

/-- ADDIU: `sext_32(trunc_32(e.a + sext_16(imm)))` (R201). -/
def addImmWrap32 (imm : Nat) (a : Word) : ArithRes := .value (sext 32 (a + immSigned imm))

/-- DADDIU: `trunc_64(e.a + sext_16(imm))` (R203). -/
def addImmWrap64 (imm : Nat) (a : Word) : ArithRes := .value (a + immSigned imm)

/-- SLTI: 1 if `s_64(e.a) < s_16(imm)` else 0 (R204). -/
def sltImm (imm : Nat) (a : Word) : ArithRes := .value (flagWord (decide (a.toInt < immInt imm)))

/-- SLTIU: 1 if `u(e.a) < u(sext_16(imm))` else 0 (R205). -/
def sltuImm (imm : Nat) (a : Word) : ArithRes :=
  .value (flagWord (decide (a.toNat < (immSigned imm).toNat)))

/-- ANDI (R206). -/
def andImm (imm : Nat) (a : Word) : ArithRes := .value (a &&& immZero imm)

/-- ORI (R207). -/
def orImm (imm : Nat) (a : Word) : ArithRes := .value (a ||| immZero imm)

/-- XORI (R208). -/
def xorImm (imm : Nat) (a : Word) : ArithRes := .value (a ^^^ immZero imm)

/-- The row of R131 of the immediate instructions but LUI: source `x[rs]`, destination `x[rt]`. -/
def regImm (rt rs : RegIdx) (op : Word → ArithRes) : Behaviour :=
  { idSources := [.x rs], dst := some (.x rt), execute := fun e => .result (op e.a) }

/-- The row of R131 of LUI: no source (R209). -/
def loadUpper (rt : RegIdx) (imm : Nat) : Behaviour :=
  { dst := some (.x rt), execute := fun _ => .result (.value (immUpper imm)) }

/-! ## The instructions -/

/-- ADDI (R200): 32-bit signed add of a sign-extended immediate, trapping. -/
def execAddi (rt rs : RegIdx) (imm : Nat) (s : State) : Host.Outcome State Fault Refusal :=
  runInstr (.addi rt rs imm) (regImm rt rs (addImmTrap 32 imm)) s

/-- ADDIU (R201): 32-bit add of a sign-extended immediate, wrapping. -/
def execAddiu (rt rs : RegIdx) (imm : Nat) (s : State) : Host.Outcome State Fault Refusal :=
  runInstr (.addiu rt rs imm) (regImm rt rs (addImmWrap32 imm)) s

/-- DADDI (R202): 64-bit signed add of a sign-extended immediate, trapping. -/
def execDaddi (rt rs : RegIdx) (imm : Nat) (s : State) : Host.Outcome State Fault Refusal :=
  runInstr (.daddi rt rs imm) (regImm rt rs (addImmTrap 64 imm)) s

/-- DADDIU (R203): 64-bit add of a sign-extended immediate, wrapping. -/
def execDaddiu (rt rs : RegIdx) (imm : Nat) (s : State) : Host.Outcome State Fault Refusal :=
  runInstr (.daddiu rt rs imm) (regImm rt rs (addImmWrap64 imm)) s

/-- SLTI (R204): signed compare with the sign-extended immediate. -/
def execSlti (rt rs : RegIdx) (imm : Nat) (s : State) : Host.Outcome State Fault Refusal :=
  runInstr (.slti rt rs imm) (regImm rt rs (sltImm imm)) s

/-- SLTIU (R205): unsigned compare with the sign-extended immediate. -/
def execSltiu (rt rs : RegIdx) (imm : Nat) (s : State) : Host.Outcome State Fault Refusal :=
  runInstr (.sltiu rt rs imm) (regImm rt rs (sltuImm imm)) s

/-- ANDI (R206): and with the zero-extended immediate. -/
def execAndi (rt rs : RegIdx) (imm : Nat) (s : State) : Host.Outcome State Fault Refusal :=
  runInstr (.andi rt rs imm) (regImm rt rs (andImm imm)) s

/-- ORI (R207): or with the zero-extended immediate. -/
def execOri (rt rs : RegIdx) (imm : Nat) (s : State) : Host.Outcome State Fault Refusal :=
  runInstr (.ori rt rs imm) (regImm rt rs (orImm imm)) s

/-- XORI (R208): exclusive or with the zero-extended immediate. -/
def execXori (rt rs : RegIdx) (imm : Nat) (s : State) : Host.Outcome State Fault Refusal :=
  runInstr (.xori rt rs imm) (regImm rt rs (xorImm imm)) s

/-- LUI (R209): load upper immediate. -/
def execLui (rt : RegIdx) (imm : Nat) (s : State) : Host.Outcome State Fault Refusal :=
  runInstr (.lui rt imm) (loadUpper rt imm) s

end Sys2Proof.Machine
end

