-- ==== Sys2Proof/Machine/MulDiv.lean ====
section
/-!
DEFINITION. The sixteen multiply and divide instructions (spec/43_muldiv.md).
-/

namespace Sys2Proof.Machine

/-! ## Products (R236) -/

/-- Bits `n-1..0` of a product, sign-extended. -/
def productLow (n : Nat) (p : Int) : ArithRes := .value (truncSext n p)

/-- Bits `2n-1..n` of a product taken as a `2n`-bit number, sign-extended. -/
def productHigh (n : Nat) (p : Int) : ArithRes :=
  .value (sextFrom ((BitVec.ofInt (2 * n) p).extractLsb' n n))

/-- The exact product of the signed readings at width `n`. -/
def signedProduct (n : Nat) (a b : Word) : Int := signedLow n a * signedLow n b

/-- The exact product of the unsigned readings at width `n`. -/
def unsignedProduct (n : Nat) (a b : Word) : Int :=
  ((unsignedLow n a * unsignedLow n b : Nat) : Int)

/-- MUL, DMUL (R220, R228). -/
def mulLow (n : Nat) (a b : Word) : ArithRes := productLow n (signedProduct n a b)

/-- MUH, DMUH (R221, R229). -/
def mulHigh (n : Nat) (a b : Word) : ArithRes := productHigh n (signedProduct n a b)

/-- MULU, DMULU (R222, R230). -/
def muluLow (n : Nat) (a b : Word) : ArithRes := productLow n (unsignedProduct n a b)

/-- MUHU, DMUHU (R223, R231). -/
def muluHigh (n : Nat) (a b : Word) : ArithRes := productHigh n (unsignedProduct n a b)

/-! ## Quotients and remainders (R237, R238) -/

/-- DIV, DDIV: the quotient truncated toward zero and to `n` bits (R224, R232). -/
def divSigned (n : Nat) (a b : Word) : ArithRes :=
  divGuard (signedLow n b == 0) allOnes64
    (truncSext n (Int.tdiv (signedLow n a) (signedLow n b)))

/-- MOD, DMOD: `x - trunc(x / y) * y` (R225, R233). -/
def modSigned (n : Nat) (a b : Word) : ArithRes :=
  divGuard (signedLow n b == 0) (sext n a)
    (truncSext n (signedLow n a - Int.tdiv (signedLow n a) (signedLow n b) * signedLow n b))

/-- DIVU, DDIVU (R226, R234). -/
def divUnsigned (n : Nat) (a b : Word) : ArithRes :=
  divGuard (unsignedLow n b == 0) allOnes64
    (truncSext n ((unsignedLow n a / unsignedLow n b : Nat) : Int))

/-- MODU, DMODU (R227, R235). -/
def modUnsigned (n : Nat) (a b : Word) : ArithRes :=
  divGuard (unsignedLow n b == 0) (sext n a)
    (truncSext n ((unsignedLow n a % unsignedLow n b : Nat) : Int))

/-! ## The instructions -/

/-- MUL (R220): low 32 bits of the signed product. -/
def execMul (rd rs rt : RegIdx) (s : State) : Host.Outcome State Fault Refusal :=
  runInstr (.mul rd rs rt) (regReg rd rs rt (mulLow 32)) s

/-- MUH (R221): high 32 bits of the signed product. -/
def execMuh (rd rs rt : RegIdx) (s : State) : Host.Outcome State Fault Refusal :=
  runInstr (.muh rd rs rt) (regReg rd rs rt (mulHigh 32)) s

/-- MULU (R222): low 32 bits of the unsigned product. -/
def execMulu (rd rs rt : RegIdx) (s : State) : Host.Outcome State Fault Refusal :=
  runInstr (.mulu rd rs rt) (regReg rd rs rt (muluLow 32)) s

/-- MUHU (R223): high 32 bits of the unsigned product. -/
def execMuhu (rd rs rt : RegIdx) (s : State) : Host.Outcome State Fault Refusal :=
  runInstr (.muhu rd rs rt) (regReg rd rs rt (muluHigh 32)) s

/-- DIV (R224): signed 32-bit quotient. -/
def execDiv (rd rs rt : RegIdx) (s : State) : Host.Outcome State Fault Refusal :=
  runInstr (.div rd rs rt) (regReg rd rs rt (divSigned 32)) s

/-- MOD (R225): signed 32-bit remainder. -/
def execMod (rd rs rt : RegIdx) (s : State) : Host.Outcome State Fault Refusal :=
  runInstr (.mod rd rs rt) (regReg rd rs rt (modSigned 32)) s

/-- DIVU (R226): unsigned 32-bit quotient. -/
def execDivu (rd rs rt : RegIdx) (s : State) : Host.Outcome State Fault Refusal :=
  runInstr (.divu rd rs rt) (regReg rd rs rt (divUnsigned 32)) s

/-- MODU (R227): unsigned 32-bit remainder. -/
def execModu (rd rs rt : RegIdx) (s : State) : Host.Outcome State Fault Refusal :=
  runInstr (.modu rd rs rt) (regReg rd rs rt (modUnsigned 32)) s

/-- DMUL (R228): low 64 bits of the signed product. -/
def execDmul (rd rs rt : RegIdx) (s : State) : Host.Outcome State Fault Refusal :=
  runInstr (.dmul rd rs rt) (regReg rd rs rt (mulLow 64)) s

/-- DMUH (R229): high 64 bits of the signed product. -/
def execDmuh (rd rs rt : RegIdx) (s : State) : Host.Outcome State Fault Refusal :=
  runInstr (.dmuh rd rs rt) (regReg rd rs rt (mulHigh 64)) s

/-- DMULU (R230): low 64 bits of the unsigned product. -/
def execDmulu (rd rs rt : RegIdx) (s : State) : Host.Outcome State Fault Refusal :=
  runInstr (.dmulu rd rs rt) (regReg rd rs rt (muluLow 64)) s

/-- DMUHU (R231): high 64 bits of the unsigned product. -/
def execDmuhu (rd rs rt : RegIdx) (s : State) : Host.Outcome State Fault Refusal :=
  runInstr (.dmuhu rd rs rt) (regReg rd rs rt (muluHigh 64)) s

/-- DDIV (R232): signed 64-bit quotient. -/
def execDdiv (rd rs rt : RegIdx) (s : State) : Host.Outcome State Fault Refusal :=
  runInstr (.ddiv rd rs rt) (regReg rd rs rt (divSigned 64)) s

/-- DMOD (R233): signed 64-bit remainder. -/
def execDmod (rd rs rt : RegIdx) (s : State) : Host.Outcome State Fault Refusal :=
  runInstr (.dmod rd rs rt) (regReg rd rs rt (modSigned 64)) s

/-- DDIVU (R234): unsigned 64-bit quotient. -/
def execDdivu (rd rs rt : RegIdx) (s : State) : Host.Outcome State Fault Refusal :=
  runInstr (.ddivu rd rs rt) (regReg rd rs rt (divUnsigned 64)) s

/-- DMODU (R235): unsigned 64-bit remainder. -/
def execDmodu (rd rs rt : RegIdx) (s : State) : Host.Outcome State Fault Refusal :=
  runInstr (.dmodu rd rs rt) (regReg rd rs rt (modUnsigned 64)) s

end Sys2Proof.Machine
end

