-- ==== Sys2Proof/Machine/Pipeline.lean ====
section
/-!
DEFINITION. The step loop: fetch, the movement of entries, and one cycle of the pipeline
(spec/70_reset_and_hazards.md R396 to R402, spec/20_memory.md R63).
-/

namespace Sys2Proof.Machine

/-- What stands in a stage when the loop reaches it (R397): a bubble or a done entry, over which the
loop goes on; a fetch that faulted; or an entry whose hook runs now. -/
inductive Entered where
  | pass (s : State)
  | fetchFault (s : State)
  | hook (s : State) (e : Entry)
  deriving DecidableEq, Repr

/-- `Fetch()`, attempted with `slot[IF]` empty: alignment of the pc, then range, then a fresh entry
(R402, 20_memory.md R63). -/
def fetch (s : State) : Entered :=
  if !aligned s.pc 4 then .fetchFault (s.takeFault .alignmentFault s.pc s.pc 4 0#32)
  else if !inRange s.pc 4 s.params.imemBytes then
    .fetchFault (s.takeFault .addressFault s.pc s.pc 0 0#32)
  else
    let e := Entry.fresh s.pc (s.ifetch s.pc) s.cycle
    .hook (s.setSlot .IF (some e)) e

/-- An entry that completed the stage before moves in (R397). -/
def moveInto (st before : Stage) (s : State) : Entered :=
  match s.slot before with
  | none => .pass s
  | some p =>
    if p.done then
      let e := { p with done := false }
      .hook ((s.setSlot st (some e)).setSlot before none) e
    else .pass s

/-- The loop reaches a stage (R397). -/
def enter (st : Stage) (s : State) : Entered :=
  match s.slot st with
  | some e => if e.done then .pass s else .hook s e
  | none =>
    match st.before with
    | some p => moveInto st p s
    | none => if s.fetchEnable then fetch s else .pass s

/-- The instruction an entry runs in a stage: in IF its word is decoded (R403), later it carries its
instruction. -/
def entryInstr (st : Stage) (e : Entry) : Option Instr :=
  match st with
  | .IF => (decode e.word).instr?
  | _ => e.ins

/-- The hook of a stage: in IF a reserved word faults (60_exceptions.md R355), every instruction runs
through `exec`. -/
def runHook (st : Stage) (e : Entry) (s : State) : Host.Outcome State Fault Refusal :=
  match entryInstr st e with
  | some i => exec i s
  | none =>
    match st with
    | .IF => .next (s.faultOf e .reservedInstruction)
    | _ => .fault .undecodedEntry

/-- One turn of the loop. -/
def runStage (st : Stage) (s : State) : Host.Outcome State Fault Refusal :=
  match enter st s with
  | .pass t => .next t
  | .fetchFault t => .next t
  | .hook t e => runHook st e t

/-- The loop goes on after a turn unless its hook stalled, halted or faulted (R397): it left its entry
done, or there is none, and the run goes on. -/
def goesOn (st : Stage) (s : State) : Bool :=
  s.runState == .running &&
  match s.slot st with
  | none => true
  | some e => e.done

/-- The loop over the remaining stages. -/
def loopFrom : List Stage → State → Host.Outcome State Fault Refusal
  | [], s => .next s
  | st :: rest, s =>
    match runStage st s with
    | .next t => if goesOn st t then loopFrom rest t else .next t
    | .fault r => .fault r
    | .refused r => .refused r

/-- The stages, oldest instruction first (R397). -/
def loopOrder : List Stage := [.WB, .MEM, .EX, .ID, .IF]

/-- What an accepted step does before its loop: RUNNING, the cycle counted, the instruction that wrote
back in the previous cycle retired (R396, R397). -/
def State.beginCycle (s : State) : State :=
  { s with runState := .running, cycle := s.cycle + 1 }.setSlot .WB none

/-- One cycle of the pipeline. -/
def cycleOnce (s : State) : Host.Outcome State Fault Refusal := loopFrom loopOrder s.beginCycle

/-- `step()` is accepted in READY and RUNNING only (60_exceptions.md R364). -/
def RunState.accepts : RunState → Bool
  | .ready => true
  | .running => true
  | .halted => false
  | .faulted => false

/-- `step()`: rejected with AlreadyHaltedError in HALTED and FAULTED, else one cycle (R396). -/
def stepCall (s : State) : Host.Outcome State Fault Refusal :=
  if s.runState.accepts then cycleOnce s else .refused .alreadyHalted

/-- `s` with a word stored where the next fetch reads, and everything that fetch needs: the pipeline
drained as by a squash of every slot (R405), fetch enabled, and a run state that accepts a step.
After reset only the word is new (log 13). -/
def placeFetchWord (s : State) (w : IWord) : State :=
  let d := (s.squashYounger .WB).squashStage .WB
  { d with
    imem := Memory.write s.imem s.pc.toNat w
    fetchEnable := true
    runState := if s.runState.accepts then s.runState else .ready
    faultRec := if s.runState.accepts then s.faultRec else none }

end Sys2Proof.Machine
end

