-- ==== Sys2Proof/Machine/Step.lean ====
section
/-!
DEFINITION. One step of the machine is one accepted `step()`, one cycle of the pipeline
(spec/70_reset_and_hazards.md R396, R420; log 1).
-/

namespace Sys2Proof.Machine

/-- One step. -/
def step (s : State) : Host.Outcome State Fault Refusal := stepCall s

/-- `s` with the instruction word `w` (bits from `nbits` up 0) stored where `step` fetches its next
instruction. -/
def State.withFetchWord (s : State) (nbits w : Nat) : State :=
  placeFetchWord s (BitVec.ofNat 32 (w % 2 ^ nbits))

end Sys2Proof.Machine
end

