-- ==== Sys2Proof/Machine/HostOps.lean ====
section
/-!
DEFINITION. What the host can do to the core beside `step()` (spec/10_state.md R52 to R54): load a
program, reset (`State.resetOp`, Ops.lean), change the inputs, read a snapshot, read the output signals,
and the signal-level view of all of these.
-/

namespace Sys2Proof.Machine

/-! ## loadProgram (20_memory.md R81, 70_reset_and_hazards.md R392) -/

/-- Why a load is rejected. -/
inductive LoadError where
  /-- `run_state` is RUNNING (60_exceptions.md R364). -/
  | running
  /-- An instruction address of the image is misaligned or not below IMEM_BYTES, or a data address is
  not below DMEM_BYTES (20_memory.md R81). -/
  | badAddress
  deriving DecidableEq, Repr

/-- A program image: partial maps from instruction addresses to words and from data addresses to
bytes (R81). -/
structure Image where
  imem : List (Nat × IWord)
  dmem : List (Nat × Byte)
  deriving DecidableEq, Repr

/-- Every instruction address is word aligned and below IMEM_BYTES, every data address is below
DMEM_BYTES (R81). -/
def Image.fits (im : Image) (p : Params) : Bool :=
  im.imem.all (fun c => c.1 % 4 == 0 && decide (c.1 < p.imemBytes)) &&
  im.dmem.all (fun c => decide (c.1 < p.dmemBytes))

/-- Whether `loadProgram` is allowed in a run state (R364). -/
def RunState.loadable : RunState → Bool
  | .ready => true
  | .running => false
  | .halted => true
  | .faulted => true

/-- `loadProgram(imem_image, dmem_image)`: every word of IMEM and every byte of DMEM is set, the ones
not mentioned to 0, and nothing else changes; a rejected call changes nothing (R81, R364, R392). -/
def State.loadProgram (s : State) (im : Image) : Except LoadError State :=
  if !s.runState.loadable then .error .running
  else if !im.fits s.params then .error .badAddress
  else .ok { s with imem := Memory.ofImage im.imem, dmem := Memory.ofImage im.dmem }

/-! ## Inputs (10_state.md R46, R54; 20_memory.md R80) -/

/-- The host drives the five configuration inputs; only `reset()` samples them (R46). -/
def State.driveConfig (s : State) (c : Cfg) : State := { s with cfgIn := c }

/-- The host fixes the `DMEM_BUSY` input (R80). -/
def State.driveBusy (s : State) (b : BusySchedule) : State := { s with dmemBusy := b }

/-! ## Snapshot (10_state.md R52) -/

/-- What the host sees of an occupied slot: the three fields of R52, and the cycle of the fetch, which
R40 has "offered to the renderer" and 60_exceptions.md R375 calls the renderer's "cycle-entry
timestamp". R52's own list leaves that field out; that the snapshot shows it is the model's reading.
DEDUCED (log 17), safe. -/
structure SlotView where
  ia : Word
  word : IWord
  done : Bool
  entryCycle : Nat
  deriving DecidableEq, Repr

/-- The snapshot: what the host can read after each step, without side effect (R52). -/
structure Snapshot where
  cycle : Nat
  occupancy : List (Option SlotView)
  x : List Word
  f : List Word
  pc : Word
  semX : List Nat
  semF : List Nat
  semPc : Nat
  stalls : Stalls
  runState : RunState
  faultRec : Option FaultRec
  dmem : Memory 8
  deriving DecidableEq, Repr

/-- An entry as the host sees it. -/
def Entry.view (e : Entry) : SlotView :=
  { ia := e.ia, word := e.word, done := e.done, entryCycle := e.entryCycle }

/-- The five stages from fetch to write-back. -/
def stageOrder : List Stage := [.IF, .ID, .EX, .MEM, .WB]

/-- The snapshot read (R52); `x[0]` reads 0 (R21). -/
def State.snapshot (s : State) : Snapshot :=
  { cycle := s.cycle
    occupancy := stageOrder.map (fun st => (s.slot st).map Entry.view)
    x := (List.finRange 32).map s.readX
    f := (List.finRange 32).map s.readF
    pc := s.pc
    semX := s.semX.toList
    semF := s.semF.toList
    semPc := s.semPc
    stalls := s.stalls
    runState := s.runState
    faultRec := s.faultRec
    dmem := s.dmem }

/-! ## Output signals (10_state.md R54, informative) -/

/-- The code of a run state on the `run_state` output. -/
def RunState.code : RunState → BitVec 2
  | .ready => 0#2
  | .running => 1#2
  | .halted => 2#2
  | .faulted => 3#2

/-- The values of the output signals that are functions of the state. The counters are unbounded
naturals (R48, R49); a 64-bit output shows them modulo 2^64. -/
structure Outputs where
  runState : BitVec 2
  faultCode : BitVec 4
  faultIa : Word
  faultAddr : Word
  faultAlign : BitVec 4
  errAlreadyHalted : Bool
  errLoad : Bool
  cycle : Word
  stallsRaw : Word
  stallsWaw : Word
  stallsStruct : Word
  deriving DecidableEq, Repr

/-- The outputs. `stepEn` and `ldEn` are the two request inputs of the cycle; code 0 means "no fault"
(60_exceptions.md R350). That `fault_ia`, `fault_addr` and `fault_align` show 0 too while `fault_rec` is
none is the model's choice: R54 and R350 say nothing of them there. So is when the two error outputs
are raised: R54 says "a rejected `step()` or load in this cycle", and the model takes the run state
before the edge and the request alone. It raises `err_load` while RUNNING whether or not a step or a
reset wins at the same edge, and not for a load outside RUNNING that is dropped, for a bad address or
because another request wins; it raises `err_already_halted` in HALTED and FAULTED although a reset
wins. DESIGN CHOICE (log 16), unsafe at the pins only. -/
def State.outputs (s : State) (stepEn ldEn : Bool) : Outputs :=
  { runState := s.runState.code
    faultCode := match s.faultRec with | none => 0#4 | some r => BitVec.ofNat 4 r.code
    faultIa := match s.faultRec with | none => 0#64 | some r => r.ia
    faultAddr := match s.faultRec with | none => 0#64 | some r => r.addr
    faultAlign := match s.faultRec with | none => 0#4 | some r => BitVec.ofNat 4 r.align
    errAlreadyHalted := stepEn && !s.runState.accepts
    errLoad := ldEn && !s.runState.loadable
    cycle := BitVec.ofNat 64 s.cycle
    stallsRaw := BitVec.ofNat 64 s.stalls.raw
    stallsWaw := BitVec.ofNat 64 s.stalls.waw
    stallsStruct := BitVec.ofNat 64 s.stalls.structural }

/-! ## Input signals and the clock edge (10_state.md R54, informative; log 16) -/

/-- The input pins at a rising clock edge. -/
structure Pins where
  rst : Bool
  stepEn : Bool
  cfg : Cfg
  dmemBusy : Bool
  ldEn : Bool
  ldSel : Bool
  ldAddr : Word
  ldData : Word
  deriving DecidableEq, Repr

/-- The load port: a 32-bit word into IMEM, the low half of `ld_data`, or a 64-bit one into DMEM, ignored
while RUNNING. An address that is misaligned or outside the memory is ignored. DESIGN CHOICE (log 16). -/
def State.loadPort (s : State) (sel : Bool) (addr data : Word) : State :=
  if !s.runState.loadable then s
  else if sel then
    if aligned addr 8 && inRange addr 8 s.params.dmemBytes then s.memWrite addr 8 data else s
  else
    if aligned addr 4 && inRange addr 4 s.params.imemBytes then
      { s with imem := Memory.write s.imem addr.toNat (data.setWidth 32) }
    else s

/-- One rising clock edge: reset before a step before a load where several are asked for; a load beside a
step, be it a rejected one, is dropped. DESIGN CHOICE (log 16). A rejected step changes nothing. -/
def State.clockEdge (s : State) (p : Pins) : State :=
  let d := (s.driveConfig p.cfg).driveBusy (.settled [] p.dmemBusy)
  if p.rst then d.resetOp
  else if p.stepEn then
    match step d with
    | .next t => t
    | .fault _ => d
    | .refused _ => d
  else if p.ldEn then d.loadPort p.ldSel p.ldAddr p.ldData
  else d

end Sys2Proof.Machine
end

