-- ==== Sys2Proof/Safety.lean ====
section
/-!
DEFINITION. The terms in which claims about the machine are stated: the invariants of the spec (10_state.md R32,
R35, R41; 45_control.md R289; 60_exceptions.md R360), the table of sources and destinations (40_stage_hooks.md
R131) read straight off the spec, and an instruction that runs alone through the five stages
(R133).
-/

namespace Sys2Proof.Machine

/-! ## Sources and destinations (40_stage_hooks.md R131) -/

/-- The column "IF sources" of R131. -/
def ifSourcesOf : Instr → List RegRef
  | .beq rs rt _ | .bne rs rt _ => [.x rs, .x rt]
  | .blez rs _ | .bgtz rs _ | .bgez rs _ | .jr rs | .jalr _ rs => [.x rs]
  | .bc1eqz ft _ | .bc1nez ft _ => [.f ft]
  | _ => []

/-- The column "ID sources" of R131: the first goes into `e.a`, the second into `e.b`. -/
def idSourcesOf : Instr → List RegRef
  | .add _ rs rt | .addu _ rs rt | .sub _ rs rt | .subu _ rs rt | .dadd _ rs rt | .daddu _ rs rt
  | .dsub _ rs rt | .dsubu _ rs rt | .and _ rs rt | .or _ rs rt | .xor _ rs rt | .nor _ rs rt
  | .slt _ rs rt | .sltu _ rs rt | .mul _ rs rt | .muh _ rs rt | .mulu _ rs rt | .muhu _ rs rt
  | .div _ rs rt | .mod _ rs rt | .divu _ rs rt | .modu _ rs rt | .dmul _ rs rt | .dmuh _ rs rt
  | .dmulu _ rs rt | .dmuhu _ rs rt | .ddiv _ rs rt | .dmod _ rs rt | .ddivu _ rs rt
  | .dmodu _ rs rt | .movz _ rs rt | .movn _ rs rt => [.x rs, .x rt]
  | .sll _ rt _ | .srl _ rt _ | .sra _ rt _ | .dsll _ rt _ | .dsrl _ rt _ | .dsra _ rt _
  | .dsll32 _ rt _ | .dsrl32 _ rt _ | .dsra32 _ rt _ => [.x rt]
  | .sllv _ rt rs | .srlv _ rt rs | .srav _ rt rs | .dsllv _ rt rs | .dsrlv _ rt rs
  | .dsrav _ rt rs => [.x rs, .x rt]
  | .addi _ rs _ | .addiu _ rs _ | .daddi _ rs _ | .daddiu _ rs _ | .slti _ rs _ | .sltiu _ rs _
  | .andi _ rs _ | .ori _ rs _ | .xori _ rs _ => [.x rs]
  | .lb _ _ rs | .lbu _ _ rs | .lh _ _ rs | .lhu _ _ rs | .lw _ _ rs | .lwu _ _ rs | .ld _ _ rs
  | .ldc1 _ _ rs => [.x rs]
  | .sb rt _ rs | .sh rt _ rs | .sw rt _ rs | .sd rt _ rs => [.x rs, .x rt]
  | .sdc1 ft _ rs => [.x rs, .f ft]
  | .addD _ fs ft | .subD _ fs ft | .mulD _ fs ft | .divD _ fs ft | .cmpUnD _ fs ft
  | .cmpEqD _ fs ft | .cmpLtD _ fs ft | .cmpLeD _ fs ft => [.f fs, .f ft]
  | .absD _ fs | .movD _ fs | .negD _ fs | .cvtLD _ fs | .cvtDL _ fs => [.f fs]
  | .dmfc1 _ fs => [.f fs]
  | .dmtc1 rt _ => [.x rt]
  | _ => []

/-- The column "destination" of R131. -/
def destinationOf : Instr → Option RegRef
  | .add rd _ _ | .addu rd _ _ | .sub rd _ _ | .subu rd _ _ | .dadd rd _ _ | .daddu rd _ _
  | .dsub rd _ _ | .dsubu rd _ _ | .and rd _ _ | .or rd _ _ | .xor rd _ _ | .nor rd _ _
  | .slt rd _ _ | .sltu rd _ _ | .mul rd _ _ | .muh rd _ _ | .mulu rd _ _ | .muhu rd _ _
  | .div rd _ _ | .mod rd _ _ | .divu rd _ _ | .modu rd _ _ | .dmul rd _ _ | .dmuh rd _ _
  | .dmulu rd _ _ | .dmuhu rd _ _ | .ddiv rd _ _ | .dmod rd _ _ | .ddivu rd _ _ | .dmodu rd _ _
  | .movz rd _ _ | .movn rd _ _ | .sll rd _ _ | .srl rd _ _ | .sra rd _ _ | .dsll rd _ _
  | .dsrl rd _ _ | .dsra rd _ _ | .dsll32 rd _ _ | .dsrl32 rd _ _ | .dsra32 rd _ _ | .sllv rd _ _
  | .srlv rd _ _ | .srav rd _ _ | .dsllv rd _ _ | .dsrlv rd _ _ | .dsrav rd _ _ => some (.x rd)
  | .addi rt _ _ | .addiu rt _ _ | .daddi rt _ _ | .daddiu rt _ _ | .slti rt _ _ | .sltiu rt _ _
  | .andi rt _ _ | .ori rt _ _ | .xori rt _ _ | .lui rt _ | .lb rt _ _ | .lbu rt _ _ | .lh rt _ _
  | .lhu rt _ _ | .lw rt _ _ | .lwu rt _ _ | .ld rt _ _ | .dmfc1 rt _ => some (.x rt)
  | .jal _ => some (.x 31)
  | .jalr rd _ => some (.x rd)
  | .addD fd _ _ | .subD fd _ _ | .mulD fd _ _ | .divD fd _ _ | .cmpUnD fd _ _ | .cmpEqD fd _ _
  | .cmpLtD fd _ _ | .cmpLeD fd _ _ | .absD fd _ | .movD fd _ | .negD fd _ | .cvtLD fd _
  | .cvtDL fd _ => some (.f fd)
  | .dmtc1 _ fs => some (.f fs)
  | .ldc1 ft _ _ => some (.f ft)
  | _ => none

/-- MOVZ and MOVN latch the old value of this register into `e.c` (R127). -/
def oldValueOf : Instr → Option RegIdx
  | .movz rd _ _ | .movn rd _ _ => some rd
  | _ => none

/-- A destination that is claimed: `x[0]` is not (R126). -/
def claimedOf (i : Instr) : Option RegRef :=
  match destinationOf i with
  | none => none
  | some d => if d = .x 0 then none else some d

/-- How many bytes the memoryHook of an instruction stores; none for an instruction that is no store
(20_memory.md R71). -/
def storeWidthOf : Instr → Option Nat
  | .sb _ _ _ => some 1
  | .sh _ _ _ => some 2
  | .sw _ _ _ => some 4
  | .sd _ _ _ | .sdc1 _ _ _ => some 8
  | _ => none

/-- How many bytes a load reads; none for an instruction that is no load (20_memory.md R71). -/
def loadWidthOf : Instr → Option Nat
  | .lb _ _ _ | .lbu _ _ _ => some 1
  | .lh _ _ _ | .lhu _ _ _ => some 2
  | .lw _ _ _ | .lwu _ _ _ => some 4
  | .ld _ _ _ | .ldc1 _ _ _ => some 8
  | _ => none

/-- The control transfers: the branches and jumps of 45_control.md R280 to R288 and 46_fpu.md R325,
R326. -/
def isTransfer : Instr → Bool
  | .beq _ _ _ | .bne _ _ _ | .blez _ _ | .bgtz _ _ | .bgez _ _ | .j _ | .jal _ | .jr _ | .jalr _ _
  | .bc1eqz _ _ | .bc1nez _ _ => true
  | _ => false

/-- `ia + 4 + sext_18(imm ‖ 00)`: the target of a conditional branch at `ia` (45_control.md R291). -/
def branchesTo (ia : Word) (imm : Nat) : Word :=
  ia + 4#64 + (BitVec.ofNat 16 imm ++ 0#2).signExtend 64

/-- `(ia + 4)[63:28] ‖ index ‖ 00`: the target of J and JAL at `ia` (45_control.md R285). -/
def jumpsTo (ia : Word) (index : Nat) : Word :=
  (ia + 4#64).extractLsb' 28 36 ++ BitVec.ofNat 26 index ++ 0#2

/-- The pc after the fetchHook of an instruction at `ia` whose IF sources have the values `a`, `b`
(10_state.md R26; the conditions of 45_control.md R280 to R288 and 46_fpu.md R325, R326). -/
def nextPcOf (i : Instr) (ia a b : Word) : Word :=
  match i with
  | .beq _ _ imm => if a = b then branchesTo ia imm else ia + 4#64
  | .bne _ _ imm => if a = b then ia + 4#64 else branchesTo ia imm
  | .blez _ imm => if a.toInt ≤ 0 then branchesTo ia imm else ia + 4#64
  | .bgtz _ imm => if 0 < a.toInt then branchesTo ia imm else ia + 4#64
  | .bgez _ imm => if 0 ≤ a.toInt then branchesTo ia imm else ia + 4#64
  | .j index | .jal index => jumpsTo ia index
  | .jr _ | .jalr _ _ => a
  | .bc1eqz _ imm => if a.getLsbD 0 then ia + 4#64 else branchesTo ia imm
  | .bc1nez _ imm => if a.getLsbD 0 then branchesTo ia imm else ia + 4#64
  | _ => ia + 4#64

/-! ## Semaphores (10_state.md R31 to R35) -/

/-- The entry has claimed the register. -/
def Entry.claims (e : Entry) (r : RegRef) : Bool := e.claimed && e.dst == some r

/-- How many claims on a register the entry of a stage holds: 0 or 1. -/
def State.claimsAt (s : State) (r : RegRef) (st : Stage) : Nat :=
  match s.slot st with
  | none => 0
  | some e => if e.claims r then 1 else 0

/-- The number of entries in ID, EX, MEM and WB with `e.claimed` true and `e.dst` the register
(R32). -/
def State.claimCount (s : State) (r : RegRef) : Nat :=
  s.claimsAt r .ID + s.claimsAt r .EX + s.claimsAt r .MEM + s.claimsAt r .WB

/-- A stage holds no claim. -/
def State.unclaimedAt (s : State) (st : Stage) : Prop :=
  ∀ e, s.slot st = some e → e.claimed = false

/-- The invariant of R32 with its bounds R35, and what makes it inductive: an entry in IF, one that has
yet to pass ID and one that has written back hold no claim, and a claim is on a register other
than `x[0]`. -/
structure SemInv (s : State) : Prop where
  counts : ∀ r, s.sem r = s.claimCount r
  atMostOne : ∀ r, s.sem r ≤ 1
  zeroFree : s.sem (.x 0) = 0
  pcFree : s.semPc = 0
  fetchUnclaimed : s.unclaimedAt .IF
  retiredUnclaimed : s.unclaimedAt .WB
  waitingUnclaimed : ∀ e, s.slot .ID = some e → e.done = false → e.claimed = false
  claimsRegister : ∀ st e, s.slot st = some e → e.claimed = true → ∃ d, e.dst = some d ∧ d ≠ .x 0

/-! ## Slots (10_state.md R40, R41) -/

/-- Every entry past IF, and every entry whose fetchHook completed, carries the instruction its word
decodes to (R40, 70_reset_and_hazards.md R403). -/
def EntriesDecoded (s : State) : Prop :=
  ∀ st e, s.slot st = some e → (st ≠ .IF ∨ e.done = true) →
    ∃ i, e.ins = some i ∧ decode e.word = .ins i

/-- The entry of a stage, if there is one, is done. -/
def State.doneAt (s : State) (st : Stage) : Prop := ∀ e, s.slot st = some e → e.done = true

/-- R41 (b) and (c): while steps are accepted EX and WB hold no stalled entry, and the stage before a
stalled entry is empty. -/
structure SlotsRegular (s : State) : Prop where
  executeDone : s.runState.accepts = true → s.doneAt .EX
  writebackDone : s.runState.accepts = true → s.doneAt .WB
  behindStall : ∀ st p e, st.before = some p → s.slot st = some e → e.done = false →
    s.slot p = none

/-- R41 (a): the entries are in program order, oldest in WB, told by the cycle of their fetch; none was
fetched after the present cycle. -/
def InProgramOrder (s : State) : Prop :=
  (∀ st y, y ∈ st.younger → ∀ e k, s.slot st = some e → s.slot y = some k →
    e.entryCycle < k.entryCycle) ∧
  (∀ st e, s.slot st = some e → e.entryCycle ≤ s.cycle)

/-! ## HALT and the end of a run (45_control.md R289, 60_exceptions.md R360, R362) -/

/-- The entry is a HALT whose fetchHook completed. -/
def Entry.isHalt (e : Entry) : Bool := e.ins == some .halt

/-- A fetched HALT is the youngest instruction and nothing is fetched behind it; a run that has halted
holds its HALT in WB and nothing else (R289). -/
structure HaltLast (s : State) : Prop where
  fetchStopped : ∀ st e, s.slot st = some e → e.isHalt = true → s.fetchEnable = false
  youngest : ∀ st e y, s.slot st = some e → e.isHalt = true → y ∈ st.younger → s.slot y = none
  halted : s.runState = .halted → ∃ e, s.slot .WB = some e ∧ e.isHalt = true

/-- There is a fault record exactly in FAULTED, and its code is that of its kind (10_state.md R44,
60_exceptions.md R350). -/
structure FaultRecorded (s : State) : Prop where
  faulted : s.runState = .faulted ↔ s.faultRec.isSome = true
  coded : ∀ r, s.faultRec = some r → r.code = r.kind.code

/-! ## Memories (20_memory.md R61, R64) -/

/-- Both memories are in canonical form. -/
def MemoriesCanonical (s : State) : Prop := Memory.wf s.imem = true ∧ Memory.wf s.dmem = true

/-- Nothing is listed outside the memories: every listed word is at a word address below IMEM_BYTES,
every listed byte below DMEM_BYTES. -/
def MemoriesInRange (s : State) : Prop :=
  (∀ c ∈ s.imem, c.1 % 4 = 0 ∧ c.1 < s.params.imemBytes) ∧ (∀ c ∈ s.dmem, c.1 < s.params.dmemBytes)

/-! ## Runs (70_reset_and_hazards.md R421) -/

/-- The step from `s` to `t` completed the fetchHook of an instruction: IF holds a done entry, and not
one that stood there before. -/
def fetchedOne (s t : State) : Bool :=
  match t.slot .IF with
  | none => false
  | some e => e.done && decide (s.slot .IF ≠ some e)

/-- `t` is reached from `s` by steps that together completed `n` fetchHooks. -/
inductive Steps (s : State) : State → Nat → Prop
  | start : Steps s s 0
  | more {t u : State} {n : Nat} (run : Steps s t n) (last : step t = .next u) :
      Steps s u (n + if fetchedOne t u then 1 else 0)

/-! ## All of it -/

/-- The invariant of the machine: what holds of every state a run reaches. The canonical form of the
memories in it is the model's own representation (log 14). -/
structure Inv (s : State) : Prop where
  memories : MemoriesCanonical s
  ranges : MemoriesInRange s
  semaphores : SemInv s
  decoded : EntriesDecoded s
  regular : SlotsRegular s
  ordered : InProgramOrder s
  halt : HaltLast s
  fault : FaultRecorded s

/-! ## One instruction alone in the pipeline -/

/-- The registers that none of the listed instructions' older neighbours has claimed: their semaphores
are 0, `x[0]` apart (40_stage_hooks.md R124, R126). -/
def State.free (s : State) (rs : List RegRef) : Prop := ∀ r ∈ rs, r ≠ .x 0 → s.sem r = 0

/-- An otherwise empty pipeline with `i` just fetched at the pc: what IF holds right after `Fetch()`
when the word at the pc is the encoding of `i` (70_reset_and_hazards.md R402). -/
def State.issue (s : State) (i : Instr) : State :=
  { s with
    slots := { Slots.empty with IF := some (Entry.fresh s.pc (encode i) s.cycle) } }

/-- The entry of the stage before moves into a stage (70_reset_and_hazards.md R397). -/
def State.advanceInto (s : State) (st : Stage) : State :=
  match st.before with
  | none => s
  | some p =>
    match s.slot p with
    | none => s
    | some e => (s.setSlot st (some { e with done := false })).setSlot p none

/-- `i`, alone in the pipeline, goes through its five hooks from `s` and ends in `t`: five times `exec`
answers a next state, once in each stage (40_stage_hooks.md R120, R133). -/
def RunsAlone (i : Instr) (s t : State) : Prop :=
  ∃ s1 s2 s3 s4,
    exec i (s.issue i) = .next s1 ∧
    exec i (s1.advanceInto .ID) = .next s2 ∧
    exec i (s2.advanceInto .EX) = .next s3 ∧
    exec i (s3.advanceInto .MEM) = .next s4 ∧
    exec i (s4.advanceInto .WB) = .next t

/-- The state without its pipeline slots. -/
def State.drained (s : State) : State := { s with slots := Slots.empty }

/-- `i` runs to its end: through all five hooks, after which its entry alone stands in WB, done, and the
rest of the state is that of `s'`. -/
def CompletesAs (i : Instr) (s s' : State) : Prop :=
  ∃ t e, RunsAlone i s t ∧ t.slots = { Slots.empty with WB := some e } ∧ e.done = true ∧
    t.drained = s'.drained

/-- The pipeline of `t` holds one entry: `i` as fetched from `s.pc`, with its claim, in a stage whose hook
it has not completed. -/
def HeldIn (i : Instr) (st : Stage) (s t : State) : Prop :=
  ∃ e, t.slots = Slots.empty.set st (some e) ∧ e.done = false ∧ e.ia = s.pc ∧ e.word = encode i ∧
    e.ins = some i ∧ e.dst = claimedOf i ∧ e.claimed = (claimedOf i).isSome

/-- `i`, alone in the pipeline, takes a fault in its executeHook: the first three hooks answer a next
state, the third of them FAULTED; its entry stays in EX as it was, not done (60_exceptions.md R360), and
the rest of the state is that of `s'`. -/
def FaultsInExAs (i : Instr) (s s' : State) : Prop :=
  ∃ s1 s2 t,
    exec i (s.issue i) = .next s1 ∧
    exec i (s1.advanceInto .ID) = .next s2 ∧
    exec i (s2.advanceInto .EX) = .next t ∧
    t.slots = (s2.advanceInto .EX).slots ∧ HeldIn i .EX s t ∧
    t.runState = .faulted ∧ t.drained = s'.drained

/-- `i`, alone in the pipeline, goes through its first three hooks and stalls or faults in its memoryHook:
its entry stays in MEM as it was, not done (20_memory.md R80, 60_exceptions.md R360), and the rest of
the state is that of `s'`. -/
def StopsInMemAs (i : Instr) (s s' : State) : Prop :=
  ∃ s1 s2 s3 t,
    exec i (s.issue i) = .next s1 ∧
    exec i (s1.advanceInto .ID) = .next s2 ∧
    exec i (s2.advanceInto .EX) = .next s3 ∧
    exec i (s3.advanceInto .MEM) = .next t ∧
    t.slots = (s3.advanceInto .MEM).slots ∧ HeldIn i .MEM s t ∧
    t.drained = s'.drained

/-- `s` after an instruction that only advances the pc (10_state.md R26). -/
def State.advanced (s : State) : State := { s with pc := s.pc + 4#64 }

/-- `s` after an instruction that writes a general register: the pc advanced, the value in the register,
nothing else changed; with register 0 nothing is written (10_state.md R21). -/
def State.withX (s : State) (r : RegIdx) (v : Word) : State := s.advanced.writeX r v

/-- `s` after an instruction that writes a floating-point register. -/
def State.withF (s : State) (r : RegIdx) (v : Word) : State := s.advanced.writeF r v

/-- The claim an instruction that stops past ID leaves behind: nothing drains (60_exceptions.md R361). -/
def State.withClaim (s : State) (i : Instr) : State :=
  match claimedOf i with
  | none => s
  | some d => s.setSem d 1

/-- `s` after `i`, alone in the pipeline, took an arithmetic fault in EX: the pc advanced, its destination
claimed, and the fault record and FAULTED as 60_exceptions.md R360 has them. -/
def State.faultedInEx (s : State) (i : Instr) (k : FaultKind) : State :=
  (s.advanced.withClaim i).takeFault k s.pc 0#64 0 (encode i)

/-- `s` after `i`, alone in the pipeline, took a fault in MEM. -/
def State.faultedInMem (s : State) (i : Instr) (k : FaultKind) (ea : Word) (align : Nat) : State :=
  (s.advanced.withClaim i).takeFault k s.pc ea align (encode i)

/-! ## Data accesses -/

/-- The access of `n` bytes passes its checks: aligned, in range, port not busy (20_memory.md R70). -/
structure State.Accessible (s : State) (ea : Word) (n : Nat) : Prop where
  aligned : ea.toNat % n = 0
  inRange : ea.toNat + n ≤ s.params.dmemBytes
  free : s.portBusy = false

/-- `DMEM[addr+1] ‖ DMEM[addr]` (20_memory.md R66). -/
def State.halfAt (s : State) (a : Nat) : BitVec 16 := s.dmemByte (a + 1) ++ s.dmemByte a

/-- `DMEM[addr+3] ‖ ... ‖ DMEM[addr]`. -/
def State.wordAt (s : State) (a : Nat) : BitVec 32 :=
  s.dmemByte (a + 3) ++ s.dmemByte (a + 2) ++ s.dmemByte (a + 1) ++ s.dmemByte a

/-- `DMEM[addr+7] ‖ ... ‖ DMEM[addr]`. -/
def State.doubleAt (s : State) (a : Nat) : Word :=
  s.dmemByte (a + 7) ++ s.dmemByte (a + 6) ++ s.dmemByte (a + 5) ++ s.dmemByte (a + 4) ++
    s.dmemByte (a + 3) ++ s.dmemByte (a + 2) ++ s.dmemByte (a + 1) ++ s.dmemByte a

/-- What a load brings into its register from the address `a`: its bytes, lowest first, extended as
the instruction says (44_loadstore.md R250 to R256, 46_fpu.md R327); none for an instruction that is
no load. -/
def State.loadedBy (s : State) (i : Instr) (a : Nat) : Option Word :=
  match i with
  | .lb _ _ _ => some ((s.dmemByte a).signExtend 64)
  | .lbu _ _ _ => some ((s.dmemByte a).setWidth 64)
  | .lh _ _ _ => some ((s.halfAt a).signExtend 64)
  | .lhu _ _ _ => some ((s.halfAt a).setWidth 64)
  | .lw _ _ _ => some ((s.wordAt a).signExtend 64)
  | .lwu _ _ _ => some ((s.wordAt a).setWidth 64)
  | .ld _ _ _ | .ldc1 _ _ _ => some (s.doubleAt a)
  | _ => none

/-- The bytes of `s` are those of `s0` but for `n` bytes from `ea` on, which are those of `v`, lowest
byte first (20_memory.md R65, R67). -/
def StoredBytes (s0 s : State) (ea : Word) (n : Nat) (v : Word) : Prop :=
  (∀ k, k < n → s.dmemByte (ea.toNat + k) = v.extractLsb' (8 * k) 8) ∧
  ∀ a, a < ea.toNat ∨ ea.toNat + n ≤ a → s.dmemByte a = s0.dmemByte a

/-! ## Arithmetic results (60_exceptions.md R356) -/

/-- The operation delivers the value: it is the result, or the fallback of a masked fault. -/
def ArithRes.Delivers (r : ArithRes) (c : Cfg) (v : Word) : Prop :=
  r = .value v ∨ ∃ k, r = .fault k v ∧ Cfg.masks c k = true

/-- The operation raises a fault that is not masked. -/
def ArithRes.Raises (r : ArithRes) (c : Cfg) (k : ArithKind) : Prop :=
  ∃ v, r = .fault k v ∧ Cfg.masks c k = false

/-! ## Binary64 data (46_fpu.md R329) -/

/-- The biased exponent `v[62:52]`. -/
def expBits (v : Word) : Nat := (v.extractLsb' 52 11).toNat

/-- The fraction `v[51:0]`. -/
def fracBits (v : Word) : Nat := (v.extractLsb' 0 52).toNat

/-- A NaN. -/
def IsNaN (v : Word) : Prop := expBits v = 2047 ∧ fracBits v ≠ 0

/-- A signalling NaN: bit 51 clear. -/
def IsSignallingNaN (v : Word) : Prop := IsNaN v ∧ v.getLsbD 51 = false

/-- An infinity. -/
def IsInfinity (v : Word) : Prop := expBits v = 2047 ∧ fracBits v = 0

/-- A zero of either sign. -/
def IsZero (v : Word) : Prop := expBits v = 0 ∧ fracBits v = 0

/-- Neither a NaN nor an infinity. -/
def IsFinite (v : Word) : Prop := expBits v ≠ 2047

/-- The value of a finite datum (R329). -/
def realValue (v : Word) : ℚ :=
  (if v.msb then -1 else 1) *
    (if expBits v = 0 then (fracBits v : ℚ) / 2 ^ 1074
      else (2 ^ 52 + fracBits v : ℚ) * 2 ^ expBits v / 2 ^ 1075)

/-- The bits of a datum read as sign and magnitude: data that are no NaN are ordered as these integers
are, infinities at the ends and the two zeros equal. -/
def signMagnitude (v : Word) : Int :=
  if v.msb then -((v.setWidth 63).toNat : Int) else ((v.setWidth 63).toNat : Int)

/-- `v` is the finite datum nearest to `r`, of two equally near ones the one with an even fraction
(R330). -/
def NearestEven (v : Word) (r : ℚ) : Prop :=
  IsFinite v ∧ ∀ w, IsFinite w → |realValue v - r| ≤ |realValue w - r| ∧
    (|realValue v - r| = |realValue w - r| → realValue w = realValue v ∨ v.getLsbD 0 = false)

/-- The outcome of an operation whose exact result is the non-zero `r` (R330, R332, R333): Overflow from
half a unit above the largest finite magnitude on, else the nearest datum, as the fallback of
Underflow if `r` rounds to less than 2^-1022 and the datum is not exact. -/
def RoundsTo (res : ArithRes) (r : ℚ) : Prop :=
  if 2 ^ 1024 - 2 ^ 970 ≤ |r| then
    res = .fault .overflow (if r < 0 then 0xFFF0000000000000#64 else 0x7FF0000000000000#64)
  else
    ∃ v, NearestEven v r ∧ v.msb = decide (r < 0) ∧
      res = if |r| < 1 / 2 ^ 1022 - 1 / 2 ^ 1076 ∧ realValue v ≠ r then .fault .underflow v
        else .value v

/-- `k` is the integer nearest to `r`, of two equally near ones the even one (R317, R330). -/
def NearestInteger (k : Int) (r : ℚ) : Prop := |r - k| ≤ 1 / 2 ∧ (|r - k| = 1 / 2 → k % 2 = 0)

end Sys2Proof.Machine
end

