-- ==== Sys2Proof/Certificates/Slice0/Obligations.lean ====
section
/-!
DEFINITION. The statements for the provers. Each docstring names the rule of spec/ it formalises. "Alone" means:
in a pipeline whose other slots are empty (Safety.lean, `CompletesAs`); what an instruction does beside
others is said by the statements about the five hooks, which hold in every state.
-/

open Sys2Proof Sys2Proof.Machine

/-! ## Encoding (30_encoding.md) -/

/-- R95: the word of a well-formed instruction is its operand fields and fixed fields placed, none cut
off; decode of encode is the identity on well-formed instructions, and encode of decode on words that
decode to an instruction. -/
def Obligations.DecodeEncodeRoundTrip : Prop :=
  (∀ i : Instr, WellFormed i → (encode i).toNat = i.layout.toNat ∧ decode (encode i) = .ins i) ∧
  (∀ (w : IWord) (i : Instr), decode w = .ins i → WellFormed i ∧ encode i = w)

/-- R99, R105: a word decodes to an instruction exactly if a row of the table matches it, the row is then
the only one, and it is the instruction's own; else the word is reserved. -/
def Obligations.DecodeIsTheTable : Prop :=
  ∀ w : IWord,
    (∀ i, decode w = .ins i → ∃ row ∈ opcodeTable, row.covers w = true ∧
      row.mnemonic = i.mnemonic ∧ ∀ other ∈ opcodeTable, other.covers w = true → other = row) ∧
    (decode w = .reserved ↔ ∀ row ∈ opcodeTable, row.covers w = false)

/-- 95_test_vectors.md E1, E2, E3: words of every family, and reserved ones. -/
def Obligations.SpecWordsDecode : Prop :=
  decode 0x00221820#32 = .ins (.add 3 1 2) ∧ decode 0x000219FF#32 = .ins (.dsra32 3 2 7) ∧
  decode 0x00221804#32 = .ins (.sllv 3 2 1) ∧ decode 0x20228001#32 = .ins (.addi 2 1 0x8001) ∧
  decode 0x3C028001#32 = .ins (.lui 2 0x8001) ∧ decode 0x002218DA#32 = .ins (.mod 3 1 2) ∧
  decode 0x8022FFF8#32 = .ins (.lb 2 0xFFF8 1) ∧ decode 0xFC22FFF8#32 = .ins (.sd 2 0xFFF8 1) ∧
  decode 0x1022FFFD#32 = .ins (.beq 1 2 0xFFFD) ∧ decode 0x04210010#32 = .ins (.bgez 1 0x10) ∧
  decode 0x0C000010#32 = .ins (.jal 0x10) ∧ decode 0x00A0F809#32 = .ins (.jalr 31 5) ∧
  decode 0x04000000#32 = .ins .halt ∧ decode 0x462208C0#32 = .ins (.addD 3 1 2) ∧
  decode 0x46A008E1#32 = .ins (.cvtDL 3 1) ∧ decode 0x44A20800#32 = .ins (.dmtc1 2 1) ∧
  decode 0x45250004#32 = .ins (.bc1eqz 5 4) ∧ decode 0xD4240010#32 = .ins (.ldc1 4 0x10 1) ∧
  decode 0x00000000#32 = .ins (.sll 0 0 0) ∧ decode 0x0000000C#32 = .reserved ∧
  decode 0x04000001#32 = .reserved ∧ decode 0x00200002#32 = .reserved

/-! ## A step runs the decoded instruction (70_reset_and_hazards.md R397, R402, R403) -/

/-- The instruction in IF. When the four older stages have had their turn and left nothing waiting, the
step is `exec` of the instruction the word in IF decodes to: on a fresh entry with the word at the pc
if IF was empty, else on the entry that was waiting in IF. -/
def Obligations.StepRunsTheDecodedInstruction : Prop :=
  ∀ (s t : State) (i : Instr), s.runState.accepts = true →
    loopFrom [.WB, .MEM, .EX, .ID] s.beginCycle = .next t → t.runState = .running →
    t.doneAt .WB → t.doneAt .MEM → t.doneAt .EX → t.doneAt .ID →
    (t.slot .IF = none → t.fetchEnable = true → t.pc.toNat % 4 = 0 →
      t.pc.toNat + 4 ≤ t.params.imemBytes → decode (t.ifetch t.pc) = .ins i →
      step s = exec i (t.setSlot .IF (some (Entry.fresh t.pc (t.ifetch t.pc) t.cycle)))) ∧
    (∀ e, t.slot .IF = some e → e.done = false → decode e.word = .ins i → step s = exec i t)

/-- The instruction in a later stage. An entry done in the stage before moves into the free stage the
loop has reached and `exec` of the instruction it carries runs on it; one that stalled in the stage
runs again. -/
def Obligations.LaterStagesRunTheCarriedInstruction : Prop :=
  ∀ (s : State) (st p : Stage) (e : Entry) (i : Instr), st.before = some p → e.ins = some i →
    (s.slot st = none → s.slot p = some e → e.done = true →
      runStage st s = exec i (s.advanceInto st)) ∧
    (s.slot st = some e → e.done = false → runStage st s = exec i s)

/-- R63, R402: with IF empty and fetching enabled, a pc that is no multiple of 4 faults with
AlignmentFault, else one outside IMEM with AddressFault; the record names the pc, no word, and for
the first the alignment 4. -/
def Obligations.FetchFaults : Prop :=
  ∀ s t : State, s.runState.accepts = true →
    loopFrom [.WB, .MEM, .EX, .ID] s.beginCycle = .next t → t.runState = .running →
    t.doneAt .WB → t.doneAt .MEM → t.doneAt .EX → t.doneAt .ID →
    t.slot .IF = none → t.fetchEnable = true →
    (t.pc.toNat % 4 ≠ 0 → step s = .next { t with
      runState := .faulted
      faultRec := some { kind := .alignmentFault, code := 1, ia := t.pc, addr := t.pc, align := 4,
                         word := 0#32 } }) ∧
    (t.pc.toNat % 4 = 0 → t.params.imemBytes < t.pc.toNat + 4 → step s = .next { t with
      runState := .faulted
      faultRec := some { kind := .addressFault, code := 6, ia := t.pc, addr := t.pc, align := 0,
                         word := 0#32 } })

/-- R105, R355: a fetched word that is reserved ends the run with ReservedInstruction; the pc stays. -/
def Obligations.ReservedWordFaults : Prop :=
  ∀ s t : State, s.runState.accepts = true →
    loopFrom [.WB, .MEM, .EX, .ID] s.beginCycle = .next t → t.runState = .running →
    t.doneAt .WB → t.doneAt .MEM → t.doneAt .EX → t.doneAt .ID →
    t.slot .IF = none → t.fetchEnable = true → t.pc.toNat % 4 = 0 →
    t.pc.toNat + 4 ≤ t.params.imemBytes → decode (t.ifetch t.pc) = .reserved →
    ∃ u, step s = .next u ∧ u.runState = .faulted ∧ u.pc = t.pc ∧ u.x = t.x ∧ u.f = t.f ∧
      u.dmem = t.dmem ∧ u.semX = t.semX ∧ u.semF = t.semF ∧
      u.faultRec = some { kind := .reservedInstruction, code := 7, ia := t.pc, addr := 0#64,
                          align := 0, word := t.ifetch t.pc }

/-! ## Integer register-register instructions (41_int_alu.md), alone -/

/-- R150, R152, R154, R156: the trapping adds and subtracts where the exact result fits. -/
def Obligations.AddSubComplete : Prop :=
  ∀ (s : State) (rd rs rt : RegIdx), s.free [.x rs, .x rt, .x rd] →
    (let a := (s.readX rs).setWidth 32
     let b := (s.readX rt).setWidth 32
     (-2 ^ 31 ≤ a.toInt + b.toInt → a.toInt + b.toInt < 2 ^ 31 →
       CompletesAs (.add rd rs rt) s (s.withX rd ((a + b).signExtend 64))) ∧
     (-2 ^ 31 ≤ a.toInt - b.toInt → a.toInt - b.toInt < 2 ^ 31 →
       CompletesAs (.sub rd rs rt) s (s.withX rd ((a - b).signExtend 64)))) ∧
    (let a := s.readX rs
     let b := s.readX rt
     (-2 ^ 63 ≤ a.toInt + b.toInt → a.toInt + b.toInt < 2 ^ 63 →
       CompletesAs (.dadd rd rs rt) s (s.withX rd (a + b))) ∧
     (-2 ^ 63 ≤ a.toInt - b.toInt → a.toInt - b.toInt < 2 ^ 63 →
       CompletesAs (.dsub rd rs rt) s (s.withX rd (a - b))))

/-- R183, R356: where the exact result does not fit, a masked Overflow delivers the largest or the
smallest value of the width, and an unmasked one ends the run. -/
def Obligations.AddSubOverflow : Prop :=
  ∀ (s : State) (rd rs rt : RegIdx), s.free [.x rs, .x rt, .x rd] →
    (∀ i k, (i = .add rd rs rt ∧ k = ((s.readX rs).setWidth 32).toInt + ((s.readX rt).setWidth 32).toInt)
        ∨ (i = .sub rd rs rt ∧
          k = ((s.readX rs).setWidth 32).toInt - ((s.readX rt).setWidth 32).toInt) →
      (k < -2 ^ 31 ∨ 2 ^ 31 ≤ k) →
      (s.cfg.maskOvf = true → CompletesAs i s
        (s.withX rd (if k < 0 then 0xFFFFFFFF80000000#64 else 0x000000007FFFFFFF#64))) ∧
      (s.cfg.maskOvf = false → FaultsInExAs i s (s.faultedInEx i .overflow))) ∧
    (∀ i k, (i = .dadd rd rs rt ∧ k = (s.readX rs).toInt + (s.readX rt).toInt)
        ∨ (i = .dsub rd rs rt ∧ k = (s.readX rs).toInt - (s.readX rt).toInt) →
      (k < -2 ^ 63 ∨ 2 ^ 63 ≤ k) →
      (s.cfg.maskOvf = true → CompletesAs i s
        (s.withX rd (if k < 0 then 0x8000000000000000#64 else 0x7FFFFFFFFFFFFFFF#64))) ∧
      (s.cfg.maskOvf = false → FaultsInExAs i s (s.faultedInEx i .overflow)))

/-- R151, R153, R155, R157: the wrapping adds and subtracts. -/
def Obligations.WrappingAddSubComplete : Prop :=
  ∀ (s : State) (rd rs rt : RegIdx), s.free [.x rs, .x rt, .x rd] →
    let a := s.readX rs
    let b := s.readX rt
    CompletesAs (.addu rd rs rt) s
      (s.withX rd ((a.setWidth 32 + b.setWidth 32).signExtend 64)) ∧
    CompletesAs (.subu rd rs rt) s
      (s.withX rd ((a.setWidth 32 - b.setWidth 32).signExtend 64)) ∧
    CompletesAs (.daddu rd rs rt) s (s.withX rd (a + b)) ∧
    CompletesAs (.dsubu rd rs rt) s (s.withX rd (a - b))

/-- R158 to R163: the logical instructions and the compares. -/
def Obligations.LogicAndCompareComplete : Prop :=
  ∀ (s : State) (rd rs rt : RegIdx), s.free [.x rs, .x rt, .x rd] →
    let a := s.readX rs
    let b := s.readX rt
    CompletesAs (.and rd rs rt) s (s.withX rd (a &&& b)) ∧
    CompletesAs (.or rd rs rt) s (s.withX rd (a ||| b)) ∧
    CompletesAs (.xor rd rs rt) s (s.withX rd (a ^^^ b)) ∧
    CompletesAs (.nor rd rs rt) s (s.withX rd (~~~a &&& ~~~b)) ∧
    CompletesAs (.slt rd rs rt) s (s.withX rd (if a.slt b then 1#64 else 0#64)) ∧
    CompletesAs (.sltu rd rs rt) s (s.withX rd (if a.ult b then 1#64 else 0#64))

/-- R164 to R172: the shifts by a constant; the 32-bit forms shift the low word and sign-extend. -/
def Obligations.ConstantShiftsComplete : Prop :=
  ∀ (s : State) (rd rt : RegIdx) (sa : Nat), s.free [.x rt, .x rd] →
    let v := s.readX rt
    let w := v.setWidth 32
    CompletesAs (.sll rd rt sa) s (s.withX rd ((w <<< sa).signExtend 64)) ∧
    CompletesAs (.srl rd rt sa) s (s.withX rd ((w >>> sa).signExtend 64)) ∧
    CompletesAs (.sra rd rt sa) s (s.withX rd ((w.sshiftRight sa).signExtend 64)) ∧
    CompletesAs (.dsll rd rt sa) s (s.withX rd (v <<< sa)) ∧
    CompletesAs (.dsrl rd rt sa) s (s.withX rd (v >>> sa)) ∧
    CompletesAs (.dsra rd rt sa) s (s.withX rd (v.sshiftRight sa)) ∧
    CompletesAs (.dsll32 rd rt sa) s (s.withX rd (v <<< (sa + 32))) ∧
    CompletesAs (.dsrl32 rd rt sa) s (s.withX rd (v >>> (sa + 32))) ∧
    CompletesAs (.dsra32 rd rt sa) s (s.withX rd (v.sshiftRight (sa + 32)))

/-- R173 to R178, R182: the shifts by a register; only the low 5 or 6 bits of the amount count. -/
def Obligations.RegisterShiftsComplete : Prop :=
  ∀ (s : State) (rd rt rs : RegIdx), s.free [.x rs, .x rt, .x rd] →
    let v := s.readX rt
    let w := v.setWidth 32
    let n5 := (s.readX rs).toNat % 32
    let n6 := (s.readX rs).toNat % 64
    CompletesAs (.sllv rd rt rs) s (s.withX rd ((w <<< n5).signExtend 64)) ∧
    CompletesAs (.srlv rd rt rs) s (s.withX rd ((w >>> n5).signExtend 64)) ∧
    CompletesAs (.srav rd rt rs) s (s.withX rd ((w.sshiftRight n5).signExtend 64)) ∧
    CompletesAs (.dsllv rd rt rs) s (s.withX rd (v <<< n6)) ∧
    CompletesAs (.dsrlv rd rt rs) s (s.withX rd (v >>> n6)) ∧
    CompletesAs (.dsrav rd rt rs) s (s.withX rd (v.sshiftRight n6))

/-- R179, R180: the conditional moves keep the destination's value where the condition fails. -/
def Obligations.ConditionalMovesComplete : Prop :=
  ∀ (s : State) (rd rs rt : RegIdx), s.free [.x rs, .x rt, .x rd] →
    (s.readX rt = 0#64 → CompletesAs (.movz rd rs rt) s (s.withX rd (s.readX rs)) ∧
      CompletesAs (.movn rd rs rt) s s.advanced) ∧
    (s.readX rt ≠ 0#64 → CompletesAs (.movz rd rs rt) s s.advanced ∧
      CompletesAs (.movn rd rs rt) s (s.withX rd (s.readX rs)))

/-! ## Integer immediate instructions (42_int_imm.md), alone -/

/-- R200, R202: the trapping immediate adds where the exact sum fits, where it does not and Overflow is
masked, and where it is not masked. -/
def Obligations.TrappingImmediateAdds : Prop :=
  ∀ (s : State) (rt rs : RegIdx) (imm : Nat), s.free [.x rs, .x rt] →
    (let k := ((s.readX rs).setWidth 32).toInt + (BitVec.ofNat 16 imm).toInt
     (-2 ^ 31 ≤ k → k < 2 ^ 31 →
       CompletesAs (.addi rt rs imm) s (s.withX rt ((BitVec.ofInt 32 k).signExtend 64))) ∧
     (k < -2 ^ 31 ∨ 2 ^ 31 ≤ k → s.cfg.maskOvf = true → CompletesAs (.addi rt rs imm) s
       (s.withX rt (if k < 0 then 0xFFFFFFFF80000000#64 else 0x000000007FFFFFFF#64))) ∧
     (k < -2 ^ 31 ∨ 2 ^ 31 ≤ k → s.cfg.maskOvf = false →
       FaultsInExAs (.addi rt rs imm) s (s.faultedInEx (.addi rt rs imm) .overflow))) ∧
    (let k := (s.readX rs).toInt + (BitVec.ofNat 16 imm).toInt
     (-2 ^ 63 ≤ k → k < 2 ^ 63 →
       CompletesAs (.daddi rt rs imm) s (s.withX rt (BitVec.ofInt 64 k))) ∧
     (k < -2 ^ 63 ∨ 2 ^ 63 ≤ k → s.cfg.maskOvf = true → CompletesAs (.daddi rt rs imm) s
       (s.withX rt (if k < 0 then 0x8000000000000000#64 else 0x7FFFFFFFFFFFFFFF#64))) ∧
     (k < -2 ^ 63 ∨ 2 ^ 63 ≤ k → s.cfg.maskOvf = false →
       FaultsInExAs (.daddi rt rs imm) s (s.faultedInEx (.daddi rt rs imm) .overflow)))

/-- R201, R203 to R209: the other immediate instructions. -/
def Obligations.ImmediatesComplete : Prop :=
  ∀ (s : State) (rt rs : RegIdx) (imm : Nat), s.free [.x rs, .x rt] →
    let a := s.readX rs
    let si := (BitVec.ofNat 16 imm).signExtend 64
    let zi := (BitVec.ofNat 16 imm).setWidth 64
    CompletesAs (.addiu rt rs imm) s
      (s.withX rt ((a.setWidth 32 + (BitVec.ofNat 16 imm).signExtend 32).signExtend 64)) ∧
    CompletesAs (.daddiu rt rs imm) s (s.withX rt (a + si)) ∧
    CompletesAs (.slti rt rs imm) s (s.withX rt (if a.slt si then 1#64 else 0#64)) ∧
    CompletesAs (.sltiu rt rs imm) s (s.withX rt (if a.ult si then 1#64 else 0#64)) ∧
    CompletesAs (.andi rt rs imm) s (s.withX rt (a &&& zi)) ∧
    CompletesAs (.ori rt rs imm) s (s.withX rt (a ||| zi)) ∧
    CompletesAs (.xori rt rs imm) s (s.withX rt (a ^^^ zi)) ∧
    CompletesAs (.lui rt imm) s
      (s.withX rt (((BitVec.ofNat 32 imm) <<< 16).signExtend 64))

/-! ## Multiply and divide (43_muldiv.md), alone -/

/-- R220 to R223, R228 to R231, R236: the low and high halves of the exact signed and unsigned
products. -/
def Obligations.MultipliesComplete : Prop :=
  ∀ (s : State) (rd rs rt : RegIdx), s.free [.x rs, .x rt, .x rd] →
    let a := s.readX rs
    let b := s.readX rt
    let a32 := a.setWidth 32
    let b32 := b.setWidth 32
    CompletesAs (.mul rd rs rt) s (s.withX rd ((a32 * b32).signExtend 64)) ∧
    CompletesAs (.muh rd rs rt) s (s.withX rd
      (((a32.signExtend 64 * b32.signExtend 64).extractLsb' 32 32).signExtend 64)) ∧
    CompletesAs (.mulu rd rs rt) s (s.withX rd ((a32 * b32).signExtend 64)) ∧
    CompletesAs (.muhu rd rs rt) s (s.withX rd
      (((a32.setWidth 64 * b32.setWidth 64).extractLsb' 32 32).signExtend 64)) ∧
    CompletesAs (.dmul rd rs rt) s (s.withX rd (a * b)) ∧
    CompletesAs (.dmuh rd rs rt) s (s.withX rd
      ((a.signExtend 128 * b.signExtend 128).extractLsb' 64 64)) ∧
    CompletesAs (.dmulu rd rs rt) s (s.withX rd (a * b)) ∧
    CompletesAs (.dmuhu rd rs rt) s (s.withX rd
      ((a.setWidth 128 * b.setWidth 128).extractLsb' 64 64))

/-- R224 to R227, R232 to R235, R237: quotients truncated toward zero and their remainders, where the
divisor at the width is not 0; the smallest integer over -1 wraps. -/
def Obligations.DividesComplete : Prop :=
  ∀ (s : State) (rd rs rt : RegIdx), s.free [.x rs, .x rt, .x rd] →
    let a := s.readX rs
    let b := s.readX rt
    let a32 := a.setWidth 32
    let b32 := b.setWidth 32
    (b32 ≠ 0#32 →
      CompletesAs (.div rd rs rt) s (s.withX rd ((a32.sdiv b32).signExtend 64)) ∧
      CompletesAs (.mod rd rs rt) s (s.withX rd ((a32.srem b32).signExtend 64)) ∧
      CompletesAs (.divu rd rs rt) s (s.withX rd ((a32 / b32).signExtend 64)) ∧
      CompletesAs (.modu rd rs rt) s (s.withX rd ((a32 % b32).signExtend 64))) ∧
    (b ≠ 0#64 →
      CompletesAs (.ddiv rd rs rt) s (s.withX rd (a.sdiv b)) ∧
      CompletesAs (.dmod rd rs rt) s (s.withX rd (a.srem b)) ∧
      CompletesAs (.ddivu rd rs rt) s (s.withX rd (a / b)) ∧
      CompletesAs (.dmodu rd rs rt) s (s.withX rd (a % b)))

/-- R238: a zero divisor at the width raises DivideByZero; masked, quotients are all ones and remainders
the dividend, of the 32-bit forms its sign-extended low word. -/
def Obligations.DivideByZero : Prop :=
  ∀ (s : State) (rd rs rt : RegIdx), s.free [.x rs, .x rt, .x rd] →
    (∀ i v, (s.readX rt).setWidth 32 = 0#32 →
      ((i = .div rd rs rt ∨ i = .divu rd rs rt) ∧ v = 0xFFFFFFFFFFFFFFFF#64) ∨
      ((i = .mod rd rs rt ∨ i = .modu rd rs rt) ∧
        v = ((s.readX rs).setWidth 32).signExtend 64) →
      (s.cfg.maskDz = true → CompletesAs i s (s.withX rd v)) ∧
      (s.cfg.maskDz = false → FaultsInExAs i s (s.faultedInEx i .divideByZero))) ∧
    (∀ i v, s.readX rt = 0#64 →
      ((i = .ddiv rd rs rt ∨ i = .ddivu rd rs rt) ∧ v = 0xFFFFFFFFFFFFFFFF#64) ∨
      ((i = .dmod rd rs rt ∨ i = .dmodu rd rs rt) ∧ v = s.readX rs) →
      (s.cfg.maskDz = true → CompletesAs i s (s.withX rd v)) ∧
      (s.cfg.maskDz = false → FaultsInExAs i s (s.faultedInEx i .divideByZero)))

/-! ## Loads and stores (44_loadstore.md, 46_fpu.md R327, R328), alone -/

/-- R250 to R256, R327: a load delivers the bytes at its effective address, lowest first, extended as the
instruction says; a load into `x[0]` delivers nothing. -/
def Obligations.LoadsComplete : Prop :=
  ∀ (s : State) (rt rs : RegIdx) (imm : Nat), s.free [.x rs] →
    let ea := s.readX rs + (BitVec.ofNat 16 imm).signExtend 64
    (s.free [.x rt] →
      (s.Accessible ea 1 →
        CompletesAs (.lb rt imm rs) s (s.withX rt ((s.dmemByte ea.toNat).signExtend 64)) ∧
        CompletesAs (.lbu rt imm rs) s (s.withX rt ((s.dmemByte ea.toNat).setWidth 64))) ∧
      (s.Accessible ea 2 →
        CompletesAs (.lh rt imm rs) s (s.withX rt ((s.halfAt ea.toNat).signExtend 64)) ∧
        CompletesAs (.lhu rt imm rs) s (s.withX rt ((s.halfAt ea.toNat).setWidth 64))) ∧
      (s.Accessible ea 4 →
        CompletesAs (.lw rt imm rs) s (s.withX rt ((s.wordAt ea.toNat).signExtend 64)) ∧
        CompletesAs (.lwu rt imm rs) s (s.withX rt ((s.wordAt ea.toNat).setWidth 64))) ∧
      (s.Accessible ea 8 →
        CompletesAs (.ld rt imm rs) s (s.withX rt (s.doubleAt ea.toNat)))) ∧
    (s.sem (.f rt) = 0 → s.Accessible ea 8 →
      CompletesAs (.ldc1 rt imm rs) s (s.withF rt (s.doubleAt ea.toNat)))

/-- R257 to R260, R328: a store writes the low bytes of its data register at the effective address, lowest
first, advances the pc, and changes nothing else: every byte outside the stored ones reads as
before. The memories are in the model's canonical form (log 14). -/
def Obligations.StoresComplete : Prop :=
  ∀ (s : State) (rt rs : RegIdx) (imm : Nat), MemoriesCanonical s → s.free [.x rs] →
    let ea := s.readX rs + (BitVec.ofNat 16 imm).signExtend 64
    (s.free [.x rt] → ∀ i n, (i = .sb rt imm rs ∧ n = 1) ∨ (i = .sh rt imm rs ∧ n = 2) ∨
        (i = .sw rt imm rs ∧ n = 4) ∨ (i = .sd rt imm rs ∧ n = 8) → s.Accessible ea n →
      ∃ m, CompletesAs i s { s.advanced with dmem := m } ∧
        StoredBytes s { s.advanced with dmem := m } ea n (s.readX rt)) ∧
    (s.sem (.f rt) = 0 → s.Accessible ea 8 →
      ∃ m, CompletesAs (.sdc1 rt imm rs) s { s.advanced with dmem := m } ∧
        StoredBytes s { s.advanced with dmem := m } ea 8 (s.readF rt))

/-- R68 to R70, R264: a misaligned access faults with its address and the required alignment, even beyond
DMEM and with the port busy; else one out of range faults with its address; the entry stays in MEM, not
done, and no byte and no register changes. -/
def Obligations.AccessFaults : Prop :=
  ∀ (s : State) (i : Instr) (rs : RegIdx) (imm n : Nat),
    (∃ rt, (i = .lb rt imm rs ∨ i = .lbu rt imm rs ∨ i = .sb rt imm rs) ∧ n = 1 ∨
      (i = .lh rt imm rs ∨ i = .lhu rt imm rs ∨ i = .sh rt imm rs) ∧ n = 2 ∨
      (i = .lw rt imm rs ∨ i = .lwu rt imm rs ∨ i = .sw rt imm rs) ∧ n = 4 ∨
      (i = .ld rt imm rs ∨ i = .sd rt imm rs ∨ i = .ldc1 rt imm rs ∨ i = .sdc1 rt imm rs) ∧
        n = 8) →
    s.free (idSourcesOf i) → (∀ d, claimedOf i = some d → s.sem d = 0) →
    let ea := s.readX rs + (BitVec.ofNat 16 imm).signExtend 64
    (ea.toNat % n ≠ 0 → StopsInMemAs i s (s.faultedInMem i .alignmentFault ea n)) ∧
    (ea.toNat % n = 0 → s.params.dmemBytes < ea.toNat + n →
      StopsInMemAs i s (s.faultedInMem i .addressFault ea 0))

/-- R80: a load or store whose checks passed stalls while the port is busy, before any access: the entry
stays in MEM as it was, not done, one structural stall is counted, and nothing else changes. -/
def Obligations.BusyPortStalls : Prop :=
  ∀ (s : State) (i : Instr) (rs : RegIdx) (imm n : Nat),
    (∃ rt, (i = .lb rt imm rs ∨ i = .lbu rt imm rs ∨ i = .sb rt imm rs) ∧ n = 1 ∨
      (i = .lh rt imm rs ∨ i = .lhu rt imm rs ∨ i = .sh rt imm rs) ∧ n = 2 ∨
      (i = .lw rt imm rs ∨ i = .lwu rt imm rs ∨ i = .sw rt imm rs) ∧ n = 4 ∨
      (i = .ld rt imm rs ∨ i = .sd rt imm rs ∨ i = .ldc1 rt imm rs ∨ i = .sdc1 rt imm rs) ∧
        n = 8) →
    s.free (idSourcesOf i) → (∀ d, claimedOf i = some d → s.sem d = 0) →
    let ea := s.readX rs + (BitVec.ofNat 16 imm).signExtend 64
    ea.toNat % n = 0 → ea.toNat + n ≤ s.params.dmemBytes → s.portBusy = true →
    StopsInMemAs i s { s.advanced.withClaim i with
      stalls := { s.stalls with structural := s.stalls.structural + 1 } }

/-! ## Control (45_control.md, 46_fpu.md R325, R326), alone -/

/-- R280 to R284, R291, R325, R326: a conditional branch sets the pc to `pc + 4 + sext_18(imm ‖ 00)` or to
`pc + 4` and changes nothing else. -/
def Obligations.BranchesComplete : Prop :=
  ∀ (s : State) (rs rt : RegIdx) (imm : Nat),
    let taken := { s with pc := branchesTo s.pc imm }
    let go := fun c : Bool => if c then taken else s.advanced
    (s.free [.x rs, .x rt] →
      CompletesAs (.beq rs rt imm) s (go (s.readX rs == s.readX rt)) ∧
      CompletesAs (.bne rs rt imm) s (go (s.readX rs != s.readX rt))) ∧
    (s.free [.x rs] →
      CompletesAs (.blez rs imm) s (go ((s.readX rs).sle 0#64)) ∧
      CompletesAs (.bgtz rs imm) s (go ((0#64).slt (s.readX rs))) ∧
      CompletesAs (.bgez rs imm) s (go ((0#64).sle (s.readX rs)))) ∧
    (s.sem (.f rt) = 0 →
      CompletesAs (.bc1eqz rt imm) s (go ((s.readF rt).toNat % 2 == 0)) ∧
      CompletesAs (.bc1nez rt imm) s (go ((s.readF rt).toNat % 2 == 1)))

/-- R285 to R288, R293, R294: the jumps; the link is the address of the jump plus 4, the target of a
register jump is the old value of the register, unchecked. -/
def Obligations.JumpsComplete : Prop :=
  ∀ (s : State) (rd rs : RegIdx) (index : Nat),
    let target := jumpsTo s.pc index
    CompletesAs (.j index) s { s with pc := target } ∧
    (s.free [.x 31] →
      CompletesAs (.jal index) s { s.writeX 31 (s.pc + 4#64) with pc := target }) ∧
    (s.free [.x rs] → CompletesAs (.jr rs) s { s with pc := s.readX rs }) ∧
    (s.free [.x rs, .x rd] →
      CompletesAs (.jalr rd rs) s { s.writeX rd (s.pc + 4#64) with pc := s.readX rs })

/-- R289, R362: HALT stops the fetch in IF and the run in WB; the pc is the address after it, its entry
stays in WB (not done, the model's reading: log 10), and nothing else changes. -/
def Obligations.HaltCompletes : Prop :=
  ∀ s : State, ∃ t e, RunsAlone .halt s t ∧ t.slots = { Slots.empty with WB := some e } ∧
    e.ins = some .halt ∧ e.ia = s.pc ∧ e.word = encode .halt ∧ e.claimed = false ∧ e.done = false ∧
    t.drained = { s.advanced with runState := .halted, fetchEnable := false }.drained

/-! ## Floating point (46_fpu.md), alone -/

/-- R314 to R316, R323, R324, R335: sign operations and moves act on bits alone. -/
def Obligations.FpMovesComplete : Prop :=
  ∀ (s : State) (fd fs : RegIdx),
    (s.free [.f fs, .f fd] →
      CompletesAs (.absD fd fs) s (s.withF fd (s.readF fs &&& 0x7FFFFFFFFFFFFFFF#64)) ∧
      CompletesAs (.movD fd fs) s (s.withF fd (s.readF fs)) ∧
      CompletesAs (.negD fd fs) s (s.withF fd (s.readF fs ^^^ 0x8000000000000000#64))) ∧
    (s.free [.f fs, .x fd] →
      CompletesAs (.dmfc1 fd fs) s (s.withX fd (s.readF fs)) ∧
      CompletesAs (.dmtc1 fd fs) s (s.withF fs (s.readX fd)))

/-- R310 to R313, R317, R318, R356: an arithmetic or convert instruction writes what its operation
delivers, or takes the unmasked fault its operation raises. -/
def Obligations.FpArithmeticCompletes : Prop :=
  ∀ (s : State) (fd fs ft : RegIdx) (i : Instr) (r : ArithRes),
    (i = .addD fd fs ft ∧ r = fadd (s.readF fs) (s.readF ft) ∧ s.free [.f fs, .f ft, .f fd]) ∨
    (i = .subD fd fs ft ∧ r = fadd (s.readF fs) (s.readF ft ^^^ 0x8000000000000000#64) ∧
      s.free [.f fs, .f ft, .f fd]) ∨
    (i = .mulD fd fs ft ∧ r = fmul (s.readF fs) (s.readF ft) ∧ s.free [.f fs, .f ft, .f fd]) ∨
    (i = .divD fd fs ft ∧ r = fdiv (s.readF fs) (s.readF ft) ∧ s.free [.f fs, .f ft, .f fd]) ∨
    (i = .cvtLD fd fs ∧ r = toLong (s.readF fs) ∧ s.free [.f fs, .f fd]) ∨
    (i = .cvtDL fd fs ∧ r = ofLong (s.readF fs) ∧ s.free [.f fs, .f fd]) →
    (∀ v, r.Delivers s.cfg v → CompletesAs i s (s.withF fd v)) ∧
    (∀ k, r.Raises s.cfg k → FaultsInExAs i s (s.faultedInEx i k.toFaultKind))

/-- R319 to R322, R332, R333: the compares on every operand pair. -/
def Obligations.FpComparesComplete : Prop :=
  ∀ (s : State) (fd fs ft : RegIdx), s.free [.f fs, .f ft, .f fd] →
    let a := s.readF fs
    let b := s.readF ft
    ∀ (i : Instr) (unordered : Bool) (holds : Prop),
      (i = .cmpUnD fd fs ft ∧ unordered = true ∧ (holds ↔ False)) ∨
      (i = .cmpEqD fd fs ft ∧ unordered = false ∧ (holds ↔ signMagnitude a = signMagnitude b)) ∨
      (i = .cmpLtD fd fs ft ∧ unordered = false ∧ (holds ↔ signMagnitude a < signMagnitude b)) ∨
      (i = .cmpLeD fd fs ft ∧ unordered = false ∧ (holds ↔ signMagnitude a ≤ signMagnitude b)) →
      (IsSignallingNaN a ∨ IsSignallingNaN b →
        (s.cfg.maskInv = true → CompletesAs i s
          (s.withF fd (if unordered then 0xFFFFFFFFFFFFFFFF#64 else 0#64))) ∧
        (s.cfg.maskInv = false → FaultsInExAs i s (s.faultedInEx i .invalidOperation))) ∧
      (¬IsSignallingNaN a → ¬IsSignallingNaN b → IsNaN a ∨ IsNaN b →
        CompletesAs i s (s.withF fd (if unordered then 0xFFFFFFFFFFFFFFFF#64 else 0#64))) ∧
      (¬IsNaN a → ¬IsNaN b → holds → CompletesAs i s (s.withF fd 0xFFFFFFFFFFFFFFFF#64)) ∧
      (¬IsNaN a → ¬IsNaN b → ¬holds → CompletesAs i s (s.withF fd 0#64))

/-- R330, R332, R333: sums, products, quotients and converted integers whose exact value is not zero are
rounded once to the nearest datum, ties to even, with Overflow and Underflow as the rule has them. -/
def Obligations.FpRoundsToNearestEven : Prop :=
  (∀ a b : Word, IsFinite a → IsFinite b →
    (realValue a + realValue b ≠ 0 → RoundsTo (fadd a b) (realValue a + realValue b)) ∧
    (realValue a * realValue b ≠ 0 → RoundsTo (fmul a b) (realValue a * realValue b)) ∧
    (realValue b ≠ 0 → realValue a ≠ 0 → RoundsTo (fdiv a b) (realValue a / realValue b))) ∧
  (∀ v : Word, v ≠ 0#64 → RoundsTo (ofLong v) (v.toInt : ℚ))

/-- R331, R332, R334: NaNs, infinities and zeros as operands of the arithmetic instructions. -/
def Obligations.FpSpecialOperands : Prop :=
  ∀ a b : Word,
    let x := a.msb ^^ b.msb
    let inf := fun neg : Bool => if neg then 0xFFF0000000000000#64 else 0x7FF0000000000000#64
    let zero := fun neg : Bool => if neg then 0x8000000000000000#64 else 0x0000000000000000#64
    let nan := 0x7FF8000000000000#64
    let invalid := ArithRes.fault .invalidOperation nan
    (IsSignallingNaN a ∨ IsSignallingNaN b →
      fadd a b = invalid ∧ fmul a b = invalid ∧ fdiv a b = invalid) ∧
    (¬IsSignallingNaN a → ¬IsSignallingNaN b → IsNaN a ∨ IsNaN b →
      fadd a b = .value nan ∧ fmul a b = .value nan ∧ fdiv a b = .value nan) ∧
    (IsInfinity a → IsInfinity b →
      fadd a b = (if x then invalid else .value a) ∧ fmul a b = .value (inf x) ∧
        fdiv a b = invalid) ∧
    (IsInfinity a → IsFinite b →
      fadd a b = .value a ∧ fmul a b = (if b.setWidth 63 = 0#63 then invalid else .value (inf x)) ∧
        fdiv a b = .value (inf x)) ∧
    (IsFinite a → IsInfinity b →
      fadd a b = .value b ∧ fmul a b = (if a.setWidth 63 = 0#63 then invalid else .value (inf x)) ∧
        fdiv a b = .value (zero x)) ∧
    (IsFinite a → IsFinite b →
      (realValue a + realValue b = 0 → fadd a b = .value (zero (a.msb && b.msb))) ∧
      (IsZero a ∨ IsZero b → fmul a b = .value (zero x)) ∧
      (IsZero a → ¬IsZero b → fdiv a b = .value (zero x)) ∧
      (IsZero a → IsZero b → fdiv a b = invalid) ∧
      (¬IsZero a → IsZero b → fdiv a b = .fault .divideByZero (inf x)))

/-- R317: CVT.L.D rounds to the nearest integer, ties to even; a NaN, an infinity and an integer outside
64 bits are InvalidOperation. R318: 0 converts to +0. -/
def Obligations.FpConversions : Prop :=
  (∀ v : Word, IsFinite v → ∃ k : Int, NearestInteger k (realValue v) ∧
    toLong v = if -2 ^ 63 ≤ k ∧ k < 2 ^ 63 then .value (BitVec.ofInt 64 k)
      else .fault .invalidOperation 0x7FFFFFFFFFFFFFFF#64) ∧
  (∀ v : Word, ¬IsFinite v → toLong v = .fault .invalidOperation 0x7FFFFFFFFFFFFFFF#64) ∧
  ofLong 0#64 = .value 0#64

/-! ## The five hooks, in every state (40_stage_hooks.md) -/

/-- R124: what `ReadSrc` returns. -/
def Obligations.ReadSourceRule : Prop :=
  ∀ (s : State) (r : RegRef),
    s.readSrc (.x 0) = .value 0#64 ∧
    (r ≠ .x 0 → s.cfg.fwd = false →
      s.readSrc r = if s.sem r = 0 then .value (s.readReg r) else .stallRaw) ∧
    (r ≠ .x 0 → s.cfg.fwd = true →
      (∀ p, s.slot .EX = some p → p.claims r = true →
        s.readSrc r = if p.resValid then .value p.res else .stallRaw) ∧
      ((∀ p, s.slot .EX = some p → p.claims r = false) →
        (∀ p, s.slot .MEM = some p → p.claims r = true →
          s.readSrc r = if p.resValid then .value p.res else .stallRaw) ∧
        ((∀ p, s.slot .MEM = some p → p.claims r = false) →
          s.readSrc r = if s.sem r = 0 then .value (s.readReg r) else .stallRaw)))

/-- R26, R47, R125, R404: the fetchHook of every instruction. A source that stalls counts one RAW stall
and changes nothing else. Else the entry is done and carries the instruction, the pc is the target of
a transfer that is taken and `e.ia + 4` otherwise, HALT clears `fetch_enable`, and nothing else
changes. -/
def Obligations.FetchHookRule : Prop :=
  ∀ (i : Instr) (s : State) (e : Entry), s.due = some (.IF, e) →
    (s.readSources (ifSourcesOf i) = none →
      exec i s = .next { s with stalls := { s.stalls with raw := s.stalls.raw + 1 } }) ∧
    (∀ vs, s.readSources (ifSourcesOf i) = some vs →
      exec i s = .next { s with
        slots := { s.slots with IF := some { e with ins := some i, done := true } }
        pc := nextPcOf i e.ia (vs.getD 0 0#64) (vs.getD 1 0#64)
        fetchEnable := s.fetchEnable && i != .halt })

/-- R126, R127: the decodeHook of every instruction. That a snapshot for which the instruction has no
source keeps its value is the model's reading (log 11). -/
def Obligations.DecodeHookRule : Prop :=
  ∀ (i : Instr) (s : State) (e : Entry), s.due = some (.ID, e) →
    (s.readSources (idSourcesOf i) = none →
      exec i s = .next { s with stalls := { s.stalls with raw := s.stalls.raw + 1 } }) ∧
    (∀ vs, s.readSources (idSourcesOf i) = some vs →
      ((∃ d, claimedOf i = some d ∧ s.sem d ≠ 0) →
        exec i s = .next { s with stalls := { s.stalls with waw := s.stalls.waw + 1 } }) ∧
      ((∀ d, claimedOf i = some d → s.sem d = 0) →
        exec i s = .next ((s.withClaim i).setSlot .ID (some { e with
          done := true
          a := vs.getD 0 e.a
          b := vs.getD 1 e.b
          c := match oldValueOf i with
            | none => e.c
            | some rd => s.readX rd
          dst := claimedOf i
          claimed := (claimedOf i).isSome }))))

/-- R127, R128, R356, R360: the executeHook of every instruction looks at its entry and the configuration
only: whatever the rest of the state, it sets the same result or effective address in the entry and
nothing else, or takes the same arithmetic fault. -/
def Obligations.ExecuteHookRule : Prop :=
  ∀ (i : Instr) (e : Entry) (c : Cfg),
    (∃ v valid ea, ∀ s : State, s.cfg = c → s.due = some (.EX, e) →
      exec i s = .next (s.setSlot .EX
        (some { e with done := true, res := v, resValid := valid, ea := ea }))) ∨
    (∃ k : ArithKind, Cfg.masks c k = false ∧ ∀ s : State, s.cfg = c → s.due = some (.EX, e) →
      exec i s = .next (s.takeFault k.toFaultKind e.ia 0#64 0 e.word))

/-- R68 to R70, R80, R130, R264: the memoryHook of every instruction. One that is no load or store only
completes. A load or store tests alignment, then range, then the port; past them a load puts the
extended bytes into its entry, a store writes the low bytes of `e.b`, and nothing else changes. For a
store the memories are in the model's canonical form (log 14). -/
def Obligations.MemoryHookRule : Prop :=
  ∀ (i : Instr) (s : State) (e : Entry), s.due = some (.MEM, e) →
    (loadWidthOf i = none → storeWidthOf i = none →
      exec i s = .next (s.setSlot .MEM (some { e with done := true }))) ∧
    (∀ n, loadWidthOf i = some n ∨ storeWidthOf i = some n →
      (e.ea.toNat % n ≠ 0 → exec i s = .next (s.takeFault .alignmentFault e.ia e.ea n e.word)) ∧
      (e.ea.toNat % n = 0 → s.params.dmemBytes < e.ea.toNat + n →
        exec i s = .next (s.takeFault .addressFault e.ia e.ea 0 e.word)) ∧
      (e.ea.toNat % n = 0 → e.ea.toNat + n ≤ s.params.dmemBytes → s.portBusy = true →
        exec i s = .next { s with
          stalls := { s.stalls with structural := s.stalls.structural + 1 } })) ∧
    (∀ n v, loadWidthOf i = some n → s.Accessible e.ea n → s.loadedBy i e.ea.toNat = some v →
      exec i s = .next (s.setSlot .MEM (some { e with done := true, res := v, resValid := true }))) ∧
    (∀ n, storeWidthOf i = some n → s.Accessible e.ea n → MemoriesCanonical s →
      ∃ t, exec i s = .next t ∧ StoredBytes s t e.ea n e.b ∧
        { t with dmem := s.dmem } = s.setSlot .MEM (some { e with done := true }))

/-- R129, R362: the writebackHook of every instruction. An entry that holds a claim commits its result,
releases its register and holds the claim no more; the entry is done, but for HALT, which ends the
run; nothing else changes. A result for `x[0]` is written nowhere. That the entry of HALT is left not
done is the model's reading (log 10). -/
def Obligations.WritebackHookRule : Prop :=
  ∀ (i : Instr) (s : State) (e : Entry), s.due = some (.WB, e) →
    let after : Slots := { s.slots with WB := some { e with claimed := false, done := i != .halt } }
    let run := if i = .halt then RunState.halted else s.runState
    (e.claimed = false → exec i s = .next { s with slots := after, runState := run }) ∧
    (∀ d, e.claimed = true → e.dst = some d → ∃ t : State,
      exec i s = .next { t with slots := after, runState := run } ∧
      { t with x := s.x, f := s.f, semX := s.semX, semF := s.semF } = s ∧
      t.sem d = s.sem d - 1 ∧ (d ≠ .x 0 → t.readReg d = e.res) ∧
      ∀ r, r ≠ d → t.sem r = s.sem r ∧ t.readReg r = s.readReg r)

/-- R23, R29, R122: a general or floating-point register changes in a writebackHook only. -/
def Obligations.RegistersChangeInWritebackOnly : Prop :=
  ∀ (i : Instr) (s t : State), exec i s = .next t → (∀ e, s.due ≠ some (.WB, e)) →
    t.x = s.x ∧ t.f = s.f

/-- R67, R78, R120: a byte of DMEM changes only in the memoryHook of a store whose checks passed, and only
among the bytes stored, at the entry's effective address; the instruction memory never changes. -/
def Obligations.MemoryChangesByStoresOnly : Prop :=
  ∀ (i : Instr) (s t : State), exec i s = .next t →
    t.imem = s.imem ∧
    (storeWidthOf i = none → t.dmem = s.dmem) ∧
    (∀ e, s.due = some (.MEM, e) → ∀ n, storeWidthOf i = some n →
      (¬s.Accessible e.ea n → t.dmem = s.dmem) ∧
      (∀ a, a < e.ea.toNat ∨ e.ea.toNat + n ≤ a → t.dmemByte a = s.dmemByte a)) ∧
    ((∀ e, s.due ≠ some (.MEM, e)) → t.dmem = s.dmem)

/-- R46, R48, R50, R370: no instruction changes the configuration, the inputs, the sizes, the cycle
counter or `sem.pc`. -/
def Obligations.InstructionsLeaveControlState : Prop :=
  ∀ (i : Instr) (s t : State), exec i s = .next t →
    t.cfg = s.cfg ∧ t.cfgIn = s.cfgIn ∧ t.params = s.params ∧ t.dmemBusy = s.dmemBusy ∧
      t.cycle = s.cycle ∧ t.semPc = s.semPc

/-- R122: a hook that ends in a stall has changed nothing but one counter, and one that ends in a fault
nothing but the run state and the fault record. -/
def Obligations.StallsAndFaultsAreAtomic : Prop :=
  ∀ (i : Instr) (s t : State), exec i s = .next t →
    (t.stalls ≠ s.stalls → { t with stalls := s.stalls } = s) ∧
    (s.runState ≠ .faulted → t.runState = .faulted →
      { t with runState := s.runState, faultRec := s.faultRec } = s)

/-! ## The step (70_reset_and_hazards.md) -/

/-- R364, R396: a step is rejected with AlreadyHaltedError in HALTED and FAULTED, and in no other run
state. That the rejected call is a refusal of the model is its reading (log 3). -/
def Obligations.StepRejectedExactlyAfterTheEnd : Prop :=
  ∀ s : State, step s = .refused .alreadyHalted ↔ (s.runState = .halted ∨ s.runState = .faulted)

/-- R48, R46, R61: an accepted step counts one cycle, leaves the configuration, the inputs and the
instruction memory, and does not end in READY. -/
def Obligations.StepCountsOneCycle : Prop :=
  ∀ s t : State, step s = .next t →
    t.cycle = s.cycle + 1 ∧ t.cfg = s.cfg ∧ t.cfgIn = s.cfgIn ∧ t.params = s.params ∧
      t.dmemBusy = s.dmemBusy ∧ t.imem = s.imem ∧ t.semPc = s.semPc ∧ t.runState ≠ .ready

/-- R49, R399, R404: a step increments at most one stall counter, by 1, and then the run goes on, the pc
and the fetch enable stay and no fetchHook completes. -/
def Obligations.AtMostOneStallPerStep : Prop :=
  ∀ s t : State, step s = .next t →
    t.stalls = s.stalls ∨
    ((t.stalls = { s.stalls with raw := s.stalls.raw + 1 } ∨
      t.stalls = { s.stalls with waw := s.stalls.waw + 1 } ∨
      t.stalls = { s.stalls with structural := s.stalls.structural + 1 }) ∧
     t.runState = .running ∧ t.pc = s.pc ∧ t.fetchEnable = s.fetchEnable ∧ fetchedOne s t = false)

/-- R421 for one step: in a step that neither stalls nor ends the run, while fetching is enabled, IF
completes the fetchHook of one instruction: it holds a done entry that did not stand there before. -/
def Obligations.StallOrFetch : Prop :=
  ∀ s t : State, Inv s → step s = .next t → s.fetchEnable = true → t.stalls = s.stalls →
    t.runState = .running → fetchedOne s t = true

/-- R421: a run from a core just reset, whatever its memories, that enters HALTED after `n` fetched
instructions, the HALT among them, has counted `n + 4` cycles and one for each stall. -/
def Obligations.HaltingRunCycles : Prop :=
  ∀ (s t : State) (n : Nat), s.runState = .ready → s.slots = Slots.empty → s.fetchEnable = true →
    s.cycle = 0 → s.stalls = { raw := 0, waw := 0, structural := 0 } → Steps s t n →
    t.runState = .halted → t.cycle = n + 4 + t.stalls.raw + t.stalls.waw + t.stalls.structural

/-- R397, R133 for one instruction alone behind which nothing is fetched: a step moves it into the next
stage and runs its hook there. -/
def Obligations.LoneInstructionAdvances : Prop :=
  ∀ (s : State) (p st : Stage) (e : Entry) (i : Instr), s.runState = .running →
    s.fetchEnable = false → st.before = some p → s.slots = Slots.empty.set p (some e) →
    e.done = true → e.ins = some i →
    step s = exec i ({ s with cycle := s.cycle + 1 }.advanceInto st)

/-! ## Invariants every step keeps -/

/-- R31 to R35: the semaphores count the claims in flight, are 0 or 1, and `sem.x[0]` and `sem.pc` are
0. -/
def Obligations.StepKeepsSemaphores : Prop :=
  ∀ s t : State, SemInv s → step s = .next t → SemInv t

/-- R40, R41, R403: entries past IF carry their instruction, stalled entries stand where they may, and the
slots are in program order. -/
def Obligations.StepKeepsSlots : Prop :=
  ∀ s t : State, EntriesDecoded s ∧ SlotsRegular s ∧ InProgramOrder s → step s = .next t →
    EntriesDecoded t ∧ SlotsRegular t ∧ InProgramOrder t

/-- R289: nothing stands behind a fetched HALT, and a halted run holds its HALT in WB. -/
def Obligations.StepKeepsHaltLast : Prop :=
  ∀ s t : State, EntriesDecoded s → HaltLast s → step s = .next t → HaltLast t

/-- R44, R360: the fault record is written exactly when the run enters FAULTED. -/
def Obligations.StepKeepsFaultRecord : Prop :=
  ∀ s t : State, FaultRecorded s → step s = .next t → FaultRecorded t

/-- R61, R64: the memories stay in canonical form (the model's, log 14) and inside their sizes. -/
def Obligations.StepKeepsMemories : Prop :=
  ∀ s t : State, MemoriesCanonical s ∧ MemoriesInRange s → step s = .next t →
    MemoriesCanonical t ∧ MemoriesInRange t

/-- The whole invariant is kept by every step from every state that has it. Of its clauses the canonical
form of the memories is the model's own representation (log 14). -/
def Obligations.StepKeepsInv : Prop := ∀ s t : State, Inv s → step s = .next t → Inv t

/-- The invariant holds after `reset()` in every state with canonical memories within their sizes, the
constant `State.reset` among them, and a load keeps it. The canonical form (log 14), the empty memories
and the sizes of `State.reset` are the model's choice (log 5, log 7). -/
def Obligations.ResetAndLoadGiveInv : Prop :=
  Inv State.reset ∧
  (∀ s : State, MemoriesCanonical s → MemoriesInRange s → Inv s.resetOp) ∧
  (∀ (s t : State) (im : Image), Inv s → s.loadProgram im = .ok t → Inv t)

/-- R377, R399 "each step returns": from a state with the invariant an accepted step answers a next
state; the model's own stops (log 2) are never reached. -/
def Obligations.AcceptedStepsComplete : Prop :=
  ∀ s : State, Inv s → s.runState = .ready ∨ s.runState = .running → ∃ t, step s = .next t

/-- R289: in HALTED all semaphores are 0, WB holds the HALT and the other slots are empty. -/
def Obligations.HaltedIsDrained : Prop :=
  ∀ s : State, Inv s → s.runState = .halted →
    (∀ r, s.sem r = 0) ∧
    ∃ e, s.slots = { Slots.empty with WB := some e } ∧ e.ins = some .halt

/-! ## Host operations -/

/-- R57, R390, R391: what `reset()` leaves, in every state; a second reset changes nothing. -/
def Obligations.ResetRule : Prop :=
  ∀ s : State,
    s.resetOp.slots = Slots.empty ∧ (∀ r, s.resetOp.sem r = 0) ∧ s.resetOp.semPc = 0 ∧
    s.resetOp.runState = .ready ∧ (∀ r, s.resetOp.readReg r = 0#64) ∧ s.resetOp.pc = 0#64 ∧
    s.resetOp.fetchEnable = true ∧ s.resetOp.faultRec = none ∧ s.resetOp.cycle = 0 ∧
    s.resetOp.stalls = { raw := 0, waw := 0, structural := 0 } ∧ s.resetOp.cfg = s.cfgIn ∧
    s.resetOp.imem = s.imem ∧ s.resetOp.dmem = s.dmem ∧ s.resetOp.params = s.params ∧
    s.resetOp.dmemBusy = s.dmemBusy ∧ s.resetOp.resetOp = s.resetOp

/-- R81, R364, R392: a load is rejected while RUNNING and with an address that does not fit; else it sets
every word and byte, the ones not mentioned to 0, and changes nothing else. -/
def Obligations.LoadProgramRule : Prop :=
  ∀ (s : State) (im : Image),
    (s.runState = .running → s.loadProgram im = .error .running) ∧
    (s.runState ≠ .running → im.fits s.params = false → s.loadProgram im = .error .badAddress) ∧
    (s.runState ≠ .running → im.fits s.params = true → ∃ t, s.loadProgram im = .ok t ∧
      { t with imem := s.imem, dmem := s.dmem } = s ∧
      (∀ a, (∀ c ∈ im.imem, c.1 ≠ a) → Memory.read t.imem a = 0#32) ∧
      (∀ a, (∀ c ∈ im.dmem, c.1 ≠ a) → Memory.read t.dmem a = 0#8) ∧
      ((im.imem.map Prod.fst).Nodup → ∀ c ∈ im.imem, Memory.read t.imem c.1 = c.2) ∧
      ((im.dmem.map Prod.fst).Nodup → ∀ c ∈ im.dmem, Memory.read t.dmem c.1 = c.2))

/-- R393: after `reset()` and a load the first step is cycle 1 and fetches the word at address 0: if that
word decodes to an instruction, the step is its fetchHook on the fresh entry. -/
def Obligations.FirstStepAfterReset : Prop :=
  ∀ (s t : State) (im : Image) (i : Instr), s.resetOp.loadProgram im = .ok t →
    4 ≤ t.params.imemBytes → decode (Memory.read t.imem 0) = .ins i →
    step t = exec i { t with
      runState := .running, cycle := 1
      slots := { Slots.empty with IF := some (Entry.fresh 0#64 (Memory.read t.imem 0) 1) } }
end

