-- ==== Sys2Proof/Laws/Memory.lean ====
section
/-!
SUPPORT. The laws of memory: read after write, canonical form, byte-wise stores, images
(spec/20_memory.md R61 to R67, R81).
-/

namespace Sys2Proof.Machine

variable {w : Nat}

/-! ## The sizes (00_scope.md R5, 93_implementation_defined.md section 1) -/

theorem Params.imemBytes_words (p : Params) : p.imemBytes % 4 = 0 := Nat.mul_mod_right 4 _

theorem Params.dmemBytes_doubles (p : Params) : p.dmemBytes % 8 = 0 := Nat.mul_mod_right 8 _

theorem Params.imemBytes_le (p : Params) : p.imemBytes ≤ 2 ^ 64 := by
  have h := p.imemWords.isLt
  unfold Params.imemBytes; omega

theorem Params.dmemBytes_le (p : Params) : p.dmemBytes ≤ 2 ^ 64 := by
  have h := p.dmemDoubles.isLt
  unfold Params.dmemBytes; omega

/-- A word-aligned address below IMEM_BYTES is that of a whole word (20_memory.md R61, R63). -/
theorem Params.imem_whole_word (p : Params) {a : Nat} (ha : a % 4 = 0) (h : a < p.imemBytes) :
    a + 4 ≤ p.imemBytes := by
  have := Params.imemBytes_words p
  omega

/-- An aligned access of 1, 2, 4 or 8 bytes that begins in DMEM lies in DMEM whole (R68, R69). -/
theorem Params.dmem_whole_access (p : Params) {a n : Nat} (hn : n ∣ 8) (ha : a % n = 0)
    (h : a < p.dmemBytes) : a + n ≤ p.dmemBytes := by
  obtain ⟨k, rfl⟩ := Nat.dvd_of_mod_eq_zero ha
  obtain ⟨q, hq⟩ := hn.trans (Nat.dvd_of_mod_eq_zero (Params.dmemBytes_doubles p))
  rw [hq] at h ⊢
  have := Nat.lt_of_mul_lt_mul_left h
  calc n * k + n = n * (k + 1) := (Nat.mul_succ n k).symm
    _ ≤ n * q := Nat.mul_le_mul_left n this

/-! ## Reading and writing one cell -/

@[simp] theorem Memory.read_nil (a : Nat) : Memory.read ([] : Memory w) a = 0#w := rfl

theorem Memory.read_cons (a k : Nat) (v : BitVec w) (m : Memory w) :
    Memory.read ((k, v) :: m) a = if k = a then v else Memory.read m a := rfl

/-- A listed address above `lo` of a canonical list is above `lo`. -/
theorem Memory.wfAbove_cons {lo : Option Nat} {k : Nat} {v : BitVec w} {m : Memory w} :
    Memory.wfAbove lo ((k, v) :: m) = true ↔
      (∀ l, lo = some l → l < k) ∧ v ≠ 0#w ∧ Memory.wfAbove (some k) m = true := by
  cases lo <;> simp [Memory.wfAbove, and_assoc]

/-- The bound of a canonical list may be lowered. -/
theorem Memory.wfAbove_mono {lo lo' : Option Nat} {m : Memory w}
    (h : ∀ l', lo' = some l' → ∃ l, lo = some l ∧ l' ≤ l)
    (hm : Memory.wfAbove lo m = true) : Memory.wfAbove lo' m = true := by
  cases m with
  | nil => rfl
  | cons c m =>
    obtain ⟨k, v⟩ := c
    rw [Memory.wfAbove_cons] at hm ⊢
    refine ⟨fun l' hl' => ?_, hm.2⟩
    obtain ⟨l, hl, hle⟩ := h l' hl'
    exact Nat.lt_of_le_of_lt hle (hm.1 l hl)

/-- Below the least listed address a canonical memory reads 0. -/
theorem Memory.read_of_le {k a : Nat} {m : Memory w} (hm : Memory.wfAbove (some k) m = true)
    (ha : a ≤ k) : Memory.read m a = 0#w := by
  induction m generalizing k with
  | nil => rfl
  | cons c m ih =>
    obtain ⟨j, v⟩ := c
    rw [Memory.wfAbove_cons] at hm
    have hk := hm.1 k rfl
    rw [Memory.read_cons, if_neg (by omega)]
    exact ih hm.2.2 (by omega)

theorem Memory.wfAbove_consCell {lo : Option Nat} {k : Nat} {v : BitVec w} {m : Memory w}
    (hlo : ∀ l, lo = some l → l < k) (hm : Memory.wfAbove (some k) m = true) :
    Memory.wfAbove lo (Memory.cons k v m) = true := by
  unfold Memory.cons
  split
  · refine Memory.wfAbove_mono (fun l hl => ⟨k, rfl, ?_⟩) hm
    exact Nat.le_of_lt (hlo l hl)
  · rw [Memory.wfAbove_cons]
    exact ⟨hlo, by assumption, hm⟩

/-- A write keeps the canonical form. -/
theorem Memory.wfAbove_write {lo : Option Nat} {m : Memory w} {a : Nat} {v : BitVec w}
    (hlo : ∀ l, lo = some l → l < a) (hm : Memory.wfAbove lo m = true) :
    Memory.wfAbove lo (Memory.write m a v) = true := by
  induction m generalizing lo with
  | nil => exact Memory.wfAbove_consCell hlo rfl
  | cons c m ih =>
    obtain ⟨k, u⟩ := c
    have hc := Memory.wfAbove_cons.mp hm
    unfold Memory.write
    split
    · refine Memory.wfAbove_consCell hlo (Memory.wfAbove_cons.mpr ⟨?_, hc.2⟩)
      rintro l ⟨rfl⟩
      assumption
    · split
      · subst_vars
        exact Memory.wfAbove_consCell hlo hc.2.2
      · refine Memory.wfAbove_cons.mpr ⟨hc.1, hc.2.1, ih ?_ hc.2.2⟩
        rintro l ⟨rfl⟩
        omega

/-- A write keeps the canonical form (Memory.wf). -/
theorem Memory.wf_write {m : Memory w} (hm : Memory.wf m = true) (a : Nat) (v : BitVec w) :
    Memory.wf (Memory.write m a v) = true :=
  Memory.wfAbove_write (by simp) hm

@[simp] theorem Memory.wf_nil : Memory.wf ([] : Memory w) = true := rfl

theorem Memory.read_consCell_same {k : Nat} {v : BitVec w} {m : Memory w}
    (hm : Memory.wfAbove (some k) m = true) : Memory.read (Memory.cons k v m) k = v := by
  unfold Memory.cons
  split
  · rw [Memory.read_of_le hm (Nat.le_refl k)]
    exact Eq.symm ‹_›
  · simp [Memory.read_cons]

theorem Memory.read_consCell_other {k a : Nat} {v : BitVec w} {m : Memory w} (h : k ≠ a) :
    Memory.read (Memory.cons k v m) a = Memory.read m a := by
  unfold Memory.cons
  split
  · rfl
  · rw [Memory.read_cons, if_neg h]

/-- A read after a write to the same address gives the value written. -/
theorem Memory.read_write_same {lo : Option Nat} {m : Memory w}
    (hm : Memory.wfAbove lo m = true) (a : Nat) (v : BitVec w) :
    Memory.read (Memory.write m a v) a = v := by
  induction m generalizing lo with
  | nil => exact Memory.read_consCell_same rfl
  | cons c m ih =>
    obtain ⟨k, u⟩ := c
    have hc := Memory.wfAbove_cons.mp hm
    unfold Memory.write
    split
    · refine Memory.read_consCell_same (Memory.wfAbove_cons.mpr ⟨?_, hc.2⟩)
      rintro l ⟨rfl⟩
      assumption
    · split
      · subst_vars
        exact Memory.read_consCell_same hc.2.2
      · rw [Memory.read_cons, if_neg (by omega)]
        exact ih hc.2.2

/-- A write leaves every other address alone; no form of the memory is needed. -/
theorem Memory.read_write_other (m : Memory w) {a b : Nat} (h : a ≠ b) (v : BitVec w) :
    Memory.read (Memory.write m a v) b = Memory.read m b := by
  induction m with
  | nil => exact Memory.read_consCell_other h
  | cons c m ih =>
    obtain ⟨k, u⟩ := c
    unfold Memory.write
    split
    · exact Memory.read_consCell_other h
    · split
      · subst_vars
        rw [Memory.read_consCell_other h, Memory.read_cons, if_neg h]
      · rw [Memory.read_cons, Memory.read_cons, ih]

/-- What a write lists: what was listed, or the written cell. -/
theorem Memory.mem_write {m : Memory w} {a : Nat} {v : BitVec w} {c : Nat × BitVec w}
    (h : c ∈ Memory.write m a v) : c ∈ m ∨ c = (a, v) := by
  induction m with
  | nil =>
    unfold Memory.write Memory.cons at h
    split at h <;> simp_all
  | cons d m ih =>
    obtain ⟨k, u⟩ := d
    unfold Memory.write Memory.cons at h
    grind

/-! ## Bytes (R66, R67) -/

/-- A store keeps the canonical form. -/
theorem Memory.wf_writeBytes {m : Memory 8} (hm : Memory.wf m = true) (addr : Nat) (v : Word)
    (n : Nat) : Memory.wf (Memory.writeBytes m addr v n) = true := by
  induction n with
  | zero => exact hm
  | succ n ih => exact Memory.wf_write ih _ _

/-- A store leaves every byte outside `addr .. addr+n-1` alone (R67). -/
theorem Memory.read_writeBytes_other (m : Memory 8) (addr : Nat) (v : Word) (n a : Nat)
    (h : a < addr ∨ addr + n ≤ a) :
    Memory.read (Memory.writeBytes m addr v n) a = Memory.read m a := by
  induction n with
  | zero => rfl
  | succ n ih =>
    rw [Memory.writeBytes, Memory.read_write_other _ (by omega), ih (by omega)]

/-- Byte `i` of a store of `n` bytes is `v[8i+7 : 8i]` (R67). -/
theorem Memory.read_writeBytes_in {m : Memory 8} (hm : Memory.wf m = true) (addr : Nat) (v : Word)
    (n i : Nat) (h : i < n) :
    Memory.read (Memory.writeBytes m addr v n) (addr + i) = byteOf v i := by
  induction n with
  | zero => omega
  | succ n ih =>
    rw [Memory.writeBytes]
    by_cases hi : i = n
    · subst hi
      exact Memory.read_write_same (Memory.wf_writeBytes hm addr v i) _ _
    · rw [Memory.read_write_other _ (by omega), ih (by omega)]

/-- What a store lists: what was listed, or a cell of the stored bytes. -/
theorem Memory.mem_writeBytes {m : Memory 8} {addr : Nat} {v : Word} {n : Nat} {c : Nat × Byte}
    (h : c ∈ Memory.writeBytes m addr v n) : c ∈ m ∨ (addr ≤ c.1 ∧ c.1 < addr + n) := by
  induction n with
  | zero => exact Or.inl h
  | succ n ih =>
    rcases Memory.mem_write h with h | rfl
    · rcases ih h with h | h
      · exact Or.inl h
      · exact Or.inr (by omega)
    · exact Or.inr (by simp)

/-- A read of `n` bytes is a number below `256^n` (R66). -/
theorem Memory.readBytes_lt (m : Memory 8) (addr n : Nat) : Memory.readBytes m addr n < 256 ^ n := by
  induction n with
  | zero => simp [Memory.readBytes]
  | succ n ih =>
    have hb := (Memory.read m (addr + n)).isLt
    rw [Memory.readBytes, pow_succ]
    have : (Memory.read m (addr + n)).toNat * 256 ^ n ≤ 255 * 256 ^ n :=
      Nat.mul_le_mul_right _ (by omega)
    omega

/-- A read depends on the bytes read only. -/
theorem Memory.readBytes_congr {m m' : Memory 8} {addr n : Nat}
    (h : ∀ i, i < n → Memory.read m (addr + i) = Memory.read m' (addr + i)) :
    Memory.readBytes m addr n = Memory.readBytes m' addr n := by
  induction n with
  | zero => rfl
  | succ n ih => rw [Memory.readBytes, Memory.readBytes, ih (fun i hi => h i (by omega)), h n (by omega)]

/-! ## Images (R81) -/

/-- The memory of an image is canonical. -/
theorem Memory.wf_ofImage (image : List (Nat × BitVec w)) : Memory.wf (Memory.ofImage image) = true := by
  unfold Memory.ofImage
  have h : ∀ (l : List (Nat × BitVec w)) (m : Memory w), Memory.wf m = true →
      Memory.wf (l.foldl (fun m p => Memory.write m p.1 p.2) m) = true := by
    intro l
    induction l with
    | nil => exact fun m hm => hm
    | cons p l ih => exact fun m hm => ih _ (Memory.wf_write hm _ _)
  exact h image [] rfl

/-- Everything the memory of an image lists stands in the image. -/
theorem Memory.mem_ofImage {image : List (Nat × BitVec w)} {c : Nat × BitVec w}
    (h : c ∈ Memory.ofImage image) : c ∈ image := by
  have key : ∀ (l : List (Nat × BitVec w)) (m : Memory w),
      c ∈ l.foldl (fun m p => Memory.write m p.1 p.2) m → c ∈ m ∨ c ∈ l := by
    intro l
    induction l with
    | nil => exact fun m hm => Or.inl hm
    | cons p l ih =>
      intro m hm
      rcases ih _ hm with h | h
      · rcases Memory.mem_write h with h | rfl
        · exact Or.inl h
        · exact Or.inr (by simp)
      · exact Or.inr (by simp [h])
  simpa using key image [] h

end Sys2Proof.Machine
end

