-- ==== Sys2Proof/Laws/State.lean ====
section
/-!
SUPPORT. What each update of State leaves alone, field by field, and what it does to the field it is
about. Every lemma is a rewrite for simp, so that no proof unfolds a record update.
-/

namespace Sys2Proof.Machine

variable (s : State)

/-! ## setSlot -/

@[simp] theorem State.setSlot_x (st : Stage) (e : Option Entry) : (s.setSlot st e).x = s.x := rfl
@[simp] theorem State.setSlot_f (st : Stage) (e : Option Entry) : (s.setSlot st e).f = s.f := rfl
@[simp] theorem State.setSlot_pc (st : Stage) (e : Option Entry) : (s.setSlot st e).pc = s.pc :=
  rfl
@[simp] theorem State.setSlot_semX (st : Stage) (e : Option Entry) : (s.setSlot st e).semX = s.semX :=
  rfl
@[simp] theorem State.setSlot_semF (st : Stage) (e : Option Entry) : (s.setSlot st e).semF = s.semF :=
  rfl
@[simp] theorem State.setSlot_semPc (st : Stage) (e : Option Entry) : (s.setSlot st e).semPc = s.semPc :=
  rfl
@[simp] theorem State.setSlot_runState (st : Stage) (e : Option Entry) : (s.setSlot st e).runState = s.runState :=
  rfl
@[simp] theorem State.setSlot_faultRec (st : Stage) (e : Option Entry) : (s.setSlot st e).faultRec = s.faultRec :=
  rfl
@[simp] theorem State.setSlot_cfg (st : Stage) (e : Option Entry) : (s.setSlot st e).cfg = s.cfg :=
  rfl
@[simp] theorem State.setSlot_cfgIn (st : Stage) (e : Option Entry) : (s.setSlot st e).cfgIn = s.cfgIn :=
  rfl
@[simp] theorem State.setSlot_fetchEnable (st : Stage) (e : Option Entry) : (s.setSlot st e).fetchEnable = s.fetchEnable :=
  rfl
@[simp] theorem State.setSlot_cycle (st : Stage) (e : Option Entry) : (s.setSlot st e).cycle = s.cycle :=
  rfl
@[simp] theorem State.setSlot_stalls (st : Stage) (e : Option Entry) : (s.setSlot st e).stalls = s.stalls :=
  rfl
@[simp] theorem State.setSlot_imem (st : Stage) (e : Option Entry) : (s.setSlot st e).imem = s.imem :=
  rfl
@[simp] theorem State.setSlot_dmem (st : Stage) (e : Option Entry) : (s.setSlot st e).dmem = s.dmem :=
  rfl
@[simp] theorem State.setSlot_params (st : Stage) (e : Option Entry) : (s.setSlot st e).params = s.params :=
  rfl
@[simp] theorem State.setSlot_dmemBusy (st : Stage) (e : Option Entry) : (s.setSlot st e).dmemBusy = s.dmemBusy :=
  rfl

/-! ## setSem -/

@[simp] theorem State.setSem_x (r : RegRef) (n : Nat) : (s.setSem r n).x = s.x :=
  by cases r <;> rfl
@[simp] theorem State.setSem_f (r : RegRef) (n : Nat) : (s.setSem r n).f = s.f :=
  by cases r <;> rfl
@[simp] theorem State.setSem_pc (r : RegRef) (n : Nat) : (s.setSem r n).pc = s.pc :=
  by cases r <;> rfl
@[simp] theorem State.setSem_semPc (r : RegRef) (n : Nat) : (s.setSem r n).semPc = s.semPc :=
  by cases r <;> rfl
@[simp] theorem State.setSem_slots (r : RegRef) (n : Nat) : (s.setSem r n).slots = s.slots :=
  by cases r <;> rfl
@[simp] theorem State.setSem_runState (r : RegRef) (n : Nat) : (s.setSem r n).runState = s.runState :=
  by cases r <;> rfl
@[simp] theorem State.setSem_faultRec (r : RegRef) (n : Nat) : (s.setSem r n).faultRec = s.faultRec :=
  by cases r <;> rfl
@[simp] theorem State.setSem_cfg (r : RegRef) (n : Nat) : (s.setSem r n).cfg = s.cfg :=
  by cases r <;> rfl
@[simp] theorem State.setSem_cfgIn (r : RegRef) (n : Nat) : (s.setSem r n).cfgIn = s.cfgIn :=
  by cases r <;> rfl
@[simp] theorem State.setSem_fetchEnable (r : RegRef) (n : Nat) : (s.setSem r n).fetchEnable = s.fetchEnable :=
  by cases r <;> rfl
@[simp] theorem State.setSem_cycle (r : RegRef) (n : Nat) : (s.setSem r n).cycle = s.cycle :=
  by cases r <;> rfl
@[simp] theorem State.setSem_stalls (r : RegRef) (n : Nat) : (s.setSem r n).stalls = s.stalls :=
  by cases r <;> rfl
@[simp] theorem State.setSem_imem (r : RegRef) (n : Nat) : (s.setSem r n).imem = s.imem :=
  by cases r <;> rfl
@[simp] theorem State.setSem_dmem (r : RegRef) (n : Nat) : (s.setSem r n).dmem = s.dmem :=
  by cases r <;> rfl
@[simp] theorem State.setSem_params (r : RegRef) (n : Nat) : (s.setSem r n).params = s.params :=
  by cases r <;> rfl
@[simp] theorem State.setSem_dmemBusy (r : RegRef) (n : Nat) : (s.setSem r n).dmemBusy = s.dmemBusy :=
  by cases r <;> rfl

/-! ## claim -/

@[simp] theorem State.claim_x (r : RegRef) : (s.claim r).x = s.x := by cases r <;> rfl
@[simp] theorem State.claim_f (r : RegRef) : (s.claim r).f = s.f := by cases r <;> rfl
@[simp] theorem State.claim_pc (r : RegRef) : (s.claim r).pc = s.pc := by cases r <;> rfl
@[simp] theorem State.claim_semPc (r : RegRef) : (s.claim r).semPc = s.semPc := by cases r <;> rfl
@[simp] theorem State.claim_slots (r : RegRef) : (s.claim r).slots = s.slots := by cases r <;> rfl
@[simp] theorem State.claim_runState (r : RegRef) : (s.claim r).runState = s.runState :=
  by cases r <;> rfl
@[simp] theorem State.claim_faultRec (r : RegRef) : (s.claim r).faultRec = s.faultRec :=
  by cases r <;> rfl
@[simp] theorem State.claim_cfg (r : RegRef) : (s.claim r).cfg = s.cfg := by cases r <;> rfl
@[simp] theorem State.claim_cfgIn (r : RegRef) : (s.claim r).cfgIn = s.cfgIn := by cases r <;> rfl
@[simp] theorem State.claim_fetchEnable (r : RegRef) : (s.claim r).fetchEnable = s.fetchEnable :=
  by cases r <;> rfl
@[simp] theorem State.claim_cycle (r : RegRef) : (s.claim r).cycle = s.cycle := by cases r <;> rfl
@[simp] theorem State.claim_stalls (r : RegRef) : (s.claim r).stalls = s.stalls :=
  by cases r <;> rfl
@[simp] theorem State.claim_imem (r : RegRef) : (s.claim r).imem = s.imem := by cases r <;> rfl
@[simp] theorem State.claim_dmem (r : RegRef) : (s.claim r).dmem = s.dmem := by cases r <;> rfl
@[simp] theorem State.claim_params (r : RegRef) : (s.claim r).params = s.params :=
  by cases r <;> rfl
@[simp] theorem State.claim_dmemBusy (r : RegRef) : (s.claim r).dmemBusy = s.dmemBusy :=
  by cases r <;> rfl

/-! ## release -/

@[simp] theorem State.release_x (r : RegRef) : (s.release r).x = s.x := by cases r <;> rfl
@[simp] theorem State.release_f (r : RegRef) : (s.release r).f = s.f := by cases r <;> rfl
@[simp] theorem State.release_pc (r : RegRef) : (s.release r).pc = s.pc := by cases r <;> rfl
@[simp] theorem State.release_semPc (r : RegRef) : (s.release r).semPc = s.semPc :=
  by cases r <;> rfl
@[simp] theorem State.release_slots (r : RegRef) : (s.release r).slots = s.slots :=
  by cases r <;> rfl
@[simp] theorem State.release_runState (r : RegRef) : (s.release r).runState = s.runState :=
  by cases r <;> rfl
@[simp] theorem State.release_faultRec (r : RegRef) : (s.release r).faultRec = s.faultRec :=
  by cases r <;> rfl
@[simp] theorem State.release_cfg (r : RegRef) : (s.release r).cfg = s.cfg := by cases r <;> rfl
@[simp] theorem State.release_cfgIn (r : RegRef) : (s.release r).cfgIn = s.cfgIn :=
  by cases r <;> rfl
@[simp] theorem State.release_fetchEnable (r : RegRef) : (s.release r).fetchEnable = s.fetchEnable :=
  by cases r <;> rfl
@[simp] theorem State.release_cycle (r : RegRef) : (s.release r).cycle = s.cycle :=
  by cases r <;> rfl
@[simp] theorem State.release_stalls (r : RegRef) : (s.release r).stalls = s.stalls :=
  by cases r <;> rfl
@[simp] theorem State.release_imem (r : RegRef) : (s.release r).imem = s.imem := by cases r <;> rfl
@[simp] theorem State.release_dmem (r : RegRef) : (s.release r).dmem = s.dmem := by cases r <;> rfl
@[simp] theorem State.release_params (r : RegRef) : (s.release r).params = s.params :=
  by cases r <;> rfl
@[simp] theorem State.release_dmemBusy (r : RegRef) : (s.release r).dmemBusy = s.dmemBusy :=
  by cases r <;> rfl

/-! ## claimDst -/

@[simp] theorem State.claimDst_x (d : Option RegRef) : (s.claimDst d).x = s.x :=
  by rcases d with _ | _ | _ <;> rfl
@[simp] theorem State.claimDst_f (d : Option RegRef) : (s.claimDst d).f = s.f :=
  by rcases d with _ | _ | _ <;> rfl
@[simp] theorem State.claimDst_pc (d : Option RegRef) : (s.claimDst d).pc = s.pc :=
  by rcases d with _ | _ | _ <;> rfl
@[simp] theorem State.claimDst_semPc (d : Option RegRef) : (s.claimDst d).semPc = s.semPc :=
  by rcases d with _ | _ | _ <;> rfl
@[simp] theorem State.claimDst_slots (d : Option RegRef) : (s.claimDst d).slots = s.slots :=
  by rcases d with _ | _ | _ <;> rfl
@[simp] theorem State.claimDst_runState (d : Option RegRef) : (s.claimDst d).runState = s.runState :=
  by rcases d with _ | _ | _ <;> rfl
@[simp] theorem State.claimDst_faultRec (d : Option RegRef) : (s.claimDst d).faultRec = s.faultRec :=
  by rcases d with _ | _ | _ <;> rfl
@[simp] theorem State.claimDst_cfg (d : Option RegRef) : (s.claimDst d).cfg = s.cfg :=
  by rcases d with _ | _ | _ <;> rfl
@[simp] theorem State.claimDst_cfgIn (d : Option RegRef) : (s.claimDst d).cfgIn = s.cfgIn :=
  by rcases d with _ | _ | _ <;> rfl
@[simp] theorem State.claimDst_fetchEnable (d : Option RegRef) : (s.claimDst d).fetchEnable = s.fetchEnable :=
  by rcases d with _ | _ | _ <;> rfl
@[simp] theorem State.claimDst_cycle (d : Option RegRef) : (s.claimDst d).cycle = s.cycle :=
  by rcases d with _ | _ | _ <;> rfl
@[simp] theorem State.claimDst_stalls (d : Option RegRef) : (s.claimDst d).stalls = s.stalls :=
  by rcases d with _ | _ | _ <;> rfl
@[simp] theorem State.claimDst_imem (d : Option RegRef) : (s.claimDst d).imem = s.imem :=
  by rcases d with _ | _ | _ <;> rfl
@[simp] theorem State.claimDst_dmem (d : Option RegRef) : (s.claimDst d).dmem = s.dmem :=
  by rcases d with _ | _ | _ <;> rfl
@[simp] theorem State.claimDst_params (d : Option RegRef) : (s.claimDst d).params = s.params :=
  by rcases d with _ | _ | _ <;> rfl
@[simp] theorem State.claimDst_dmemBusy (d : Option RegRef) : (s.claimDst d).dmemBusy = s.dmemBusy :=
  by rcases d with _ | _ | _ <;> rfl

/-! ## writeX -/

@[simp] theorem State.writeX_f (i : RegIdx) (v : Word) : (s.writeX i v).f = s.f :=
  by unfold State.writeX; split <;> rfl
@[simp] theorem State.writeX_pc (i : RegIdx) (v : Word) : (s.writeX i v).pc = s.pc :=
  by unfold State.writeX; split <;> rfl
@[simp] theorem State.writeX_semX (i : RegIdx) (v : Word) : (s.writeX i v).semX = s.semX :=
  by unfold State.writeX; split <;> rfl
@[simp] theorem State.writeX_semF (i : RegIdx) (v : Word) : (s.writeX i v).semF = s.semF :=
  by unfold State.writeX; split <;> rfl
@[simp] theorem State.writeX_semPc (i : RegIdx) (v : Word) : (s.writeX i v).semPc = s.semPc :=
  by unfold State.writeX; split <;> rfl
@[simp] theorem State.writeX_slots (i : RegIdx) (v : Word) : (s.writeX i v).slots = s.slots :=
  by unfold State.writeX; split <;> rfl
@[simp] theorem State.writeX_runState (i : RegIdx) (v : Word) : (s.writeX i v).runState = s.runState :=
  by unfold State.writeX; split <;> rfl
@[simp] theorem State.writeX_faultRec (i : RegIdx) (v : Word) : (s.writeX i v).faultRec = s.faultRec :=
  by unfold State.writeX; split <;> rfl
@[simp] theorem State.writeX_cfg (i : RegIdx) (v : Word) : (s.writeX i v).cfg = s.cfg :=
  by unfold State.writeX; split <;> rfl
@[simp] theorem State.writeX_cfgIn (i : RegIdx) (v : Word) : (s.writeX i v).cfgIn = s.cfgIn :=
  by unfold State.writeX; split <;> rfl
@[simp] theorem State.writeX_fetchEnable (i : RegIdx) (v : Word) : (s.writeX i v).fetchEnable = s.fetchEnable :=
  by unfold State.writeX; split <;> rfl
@[simp] theorem State.writeX_cycle (i : RegIdx) (v : Word) : (s.writeX i v).cycle = s.cycle :=
  by unfold State.writeX; split <;> rfl
@[simp] theorem State.writeX_stalls (i : RegIdx) (v : Word) : (s.writeX i v).stalls = s.stalls :=
  by unfold State.writeX; split <;> rfl
@[simp] theorem State.writeX_imem (i : RegIdx) (v : Word) : (s.writeX i v).imem = s.imem :=
  by unfold State.writeX; split <;> rfl
@[simp] theorem State.writeX_dmem (i : RegIdx) (v : Word) : (s.writeX i v).dmem = s.dmem :=
  by unfold State.writeX; split <;> rfl
@[simp] theorem State.writeX_params (i : RegIdx) (v : Word) : (s.writeX i v).params = s.params :=
  by unfold State.writeX; split <;> rfl
@[simp] theorem State.writeX_dmemBusy (i : RegIdx) (v : Word) : (s.writeX i v).dmemBusy = s.dmemBusy :=
  by unfold State.writeX; split <;> rfl

/-! ## writeF -/

@[simp] theorem State.writeF_x (i : RegIdx) (v : Word) : (s.writeF i v).x = s.x := rfl
@[simp] theorem State.writeF_pc (i : RegIdx) (v : Word) : (s.writeF i v).pc = s.pc := rfl
@[simp] theorem State.writeF_semX (i : RegIdx) (v : Word) : (s.writeF i v).semX = s.semX := rfl
@[simp] theorem State.writeF_semF (i : RegIdx) (v : Word) : (s.writeF i v).semF = s.semF := rfl
@[simp] theorem State.writeF_semPc (i : RegIdx) (v : Word) : (s.writeF i v).semPc = s.semPc := rfl
@[simp] theorem State.writeF_slots (i : RegIdx) (v : Word) : (s.writeF i v).slots = s.slots := rfl
@[simp] theorem State.writeF_runState (i : RegIdx) (v : Word) : (s.writeF i v).runState = s.runState :=
  rfl
@[simp] theorem State.writeF_faultRec (i : RegIdx) (v : Word) : (s.writeF i v).faultRec = s.faultRec :=
  rfl
@[simp] theorem State.writeF_cfg (i : RegIdx) (v : Word) : (s.writeF i v).cfg = s.cfg := rfl
@[simp] theorem State.writeF_cfgIn (i : RegIdx) (v : Word) : (s.writeF i v).cfgIn = s.cfgIn := rfl
@[simp] theorem State.writeF_fetchEnable (i : RegIdx) (v : Word) : (s.writeF i v).fetchEnable = s.fetchEnable :=
  rfl
@[simp] theorem State.writeF_cycle (i : RegIdx) (v : Word) : (s.writeF i v).cycle = s.cycle := rfl
@[simp] theorem State.writeF_stalls (i : RegIdx) (v : Word) : (s.writeF i v).stalls = s.stalls :=
  rfl
@[simp] theorem State.writeF_imem (i : RegIdx) (v : Word) : (s.writeF i v).imem = s.imem := rfl
@[simp] theorem State.writeF_dmem (i : RegIdx) (v : Word) : (s.writeF i v).dmem = s.dmem := rfl
@[simp] theorem State.writeF_params (i : RegIdx) (v : Word) : (s.writeF i v).params = s.params :=
  rfl
@[simp] theorem State.writeF_dmemBusy (i : RegIdx) (v : Word) : (s.writeF i v).dmemBusy = s.dmemBusy :=
  rfl

/-! ## writeReg -/

@[simp] theorem State.writeReg_pc (r : RegRef) (v : Word) : (s.writeReg r v).pc = s.pc :=
  by cases r <;> simp [State.writeReg]
@[simp] theorem State.writeReg_semX (r : RegRef) (v : Word) : (s.writeReg r v).semX = s.semX :=
  by cases r <;> simp [State.writeReg]
@[simp] theorem State.writeReg_semF (r : RegRef) (v : Word) : (s.writeReg r v).semF = s.semF :=
  by cases r <;> simp [State.writeReg]
@[simp] theorem State.writeReg_semPc (r : RegRef) (v : Word) : (s.writeReg r v).semPc = s.semPc :=
  by cases r <;> simp [State.writeReg]
@[simp] theorem State.writeReg_slots (r : RegRef) (v : Word) : (s.writeReg r v).slots = s.slots :=
  by cases r <;> simp [State.writeReg]
@[simp] theorem State.writeReg_runState (r : RegRef) (v : Word) : (s.writeReg r v).runState = s.runState :=
  by cases r <;> simp [State.writeReg]
@[simp] theorem State.writeReg_faultRec (r : RegRef) (v : Word) : (s.writeReg r v).faultRec = s.faultRec :=
  by cases r <;> simp [State.writeReg]
@[simp] theorem State.writeReg_cfg (r : RegRef) (v : Word) : (s.writeReg r v).cfg = s.cfg :=
  by cases r <;> simp [State.writeReg]
@[simp] theorem State.writeReg_cfgIn (r : RegRef) (v : Word) : (s.writeReg r v).cfgIn = s.cfgIn :=
  by cases r <;> simp [State.writeReg]
@[simp] theorem State.writeReg_fetchEnable (r : RegRef) (v : Word) : (s.writeReg r v).fetchEnable = s.fetchEnable :=
  by cases r <;> simp [State.writeReg]
@[simp] theorem State.writeReg_cycle (r : RegRef) (v : Word) : (s.writeReg r v).cycle = s.cycle :=
  by cases r <;> simp [State.writeReg]
@[simp] theorem State.writeReg_stalls (r : RegRef) (v : Word) : (s.writeReg r v).stalls = s.stalls :=
  by cases r <;> simp [State.writeReg]
@[simp] theorem State.writeReg_imem (r : RegRef) (v : Word) : (s.writeReg r v).imem = s.imem :=
  by cases r <;> simp [State.writeReg]
@[simp] theorem State.writeReg_dmem (r : RegRef) (v : Word) : (s.writeReg r v).dmem = s.dmem :=
  by cases r <;> simp [State.writeReg]
@[simp] theorem State.writeReg_params (r : RegRef) (v : Word) : (s.writeReg r v).params = s.params :=
  by cases r <;> simp [State.writeReg]
@[simp] theorem State.writeReg_dmemBusy (r : RegRef) (v : Word) : (s.writeReg r v).dmemBusy = s.dmemBusy :=
  by cases r <;> simp [State.writeReg]

/-! ## stall -/

@[simp] theorem State.stall_x (h : Hazard) : (s.stall h).x = s.x := by cases h <;> rfl
@[simp] theorem State.stall_f (h : Hazard) : (s.stall h).f = s.f := by cases h <;> rfl
@[simp] theorem State.stall_pc (h : Hazard) : (s.stall h).pc = s.pc := by cases h <;> rfl
@[simp] theorem State.stall_semX (h : Hazard) : (s.stall h).semX = s.semX := by cases h <;> rfl
@[simp] theorem State.stall_semF (h : Hazard) : (s.stall h).semF = s.semF := by cases h <;> rfl
@[simp] theorem State.stall_semPc (h : Hazard) : (s.stall h).semPc = s.semPc := by cases h <;> rfl
@[simp] theorem State.stall_slots (h : Hazard) : (s.stall h).slots = s.slots := by cases h <;> rfl
@[simp] theorem State.stall_runState (h : Hazard) : (s.stall h).runState = s.runState :=
  by cases h <;> rfl
@[simp] theorem State.stall_faultRec (h : Hazard) : (s.stall h).faultRec = s.faultRec :=
  by cases h <;> rfl
@[simp] theorem State.stall_cfg (h : Hazard) : (s.stall h).cfg = s.cfg := by cases h <;> rfl
@[simp] theorem State.stall_cfgIn (h : Hazard) : (s.stall h).cfgIn = s.cfgIn := by cases h <;> rfl
@[simp] theorem State.stall_fetchEnable (h : Hazard) : (s.stall h).fetchEnable = s.fetchEnable :=
  by cases h <;> rfl
@[simp] theorem State.stall_cycle (h : Hazard) : (s.stall h).cycle = s.cycle := by cases h <;> rfl
@[simp] theorem State.stall_imem (h : Hazard) : (s.stall h).imem = s.imem := by cases h <;> rfl
@[simp] theorem State.stall_dmem (h : Hazard) : (s.stall h).dmem = s.dmem := by cases h <;> rfl
@[simp] theorem State.stall_params (h : Hazard) : (s.stall h).params = s.params :=
  by cases h <;> rfl
@[simp] theorem State.stall_dmemBusy (h : Hazard) : (s.stall h).dmemBusy = s.dmemBusy :=
  by cases h <;> rfl

/-! ## takeFault -/

@[simp] theorem State.takeFault_x (k : FaultKind) (ia addr : Word) (n : Nat) (w : IWord) : (s.takeFault k ia addr n w).x = s.x :=
  rfl
@[simp] theorem State.takeFault_f (k : FaultKind) (ia addr : Word) (n : Nat) (w : IWord) : (s.takeFault k ia addr n w).f = s.f :=
  rfl
@[simp] theorem State.takeFault_pc (k : FaultKind) (ia addr : Word) (n : Nat) (w : IWord) : (s.takeFault k ia addr n w).pc = s.pc :=
  rfl
@[simp] theorem State.takeFault_semX (k : FaultKind) (ia addr : Word) (n : Nat) (w : IWord) : (s.takeFault k ia addr n w).semX = s.semX :=
  rfl
@[simp] theorem State.takeFault_semF (k : FaultKind) (ia addr : Word) (n : Nat) (w : IWord) : (s.takeFault k ia addr n w).semF = s.semF :=
  rfl
@[simp] theorem State.takeFault_semPc (k : FaultKind) (ia addr : Word) (n : Nat) (w : IWord) : (s.takeFault k ia addr n w).semPc = s.semPc :=
  rfl
@[simp] theorem State.takeFault_slots (k : FaultKind) (ia addr : Word) (n : Nat) (w : IWord) : (s.takeFault k ia addr n w).slots = s.slots :=
  rfl
@[simp] theorem State.takeFault_cfg (k : FaultKind) (ia addr : Word) (n : Nat) (w : IWord) : (s.takeFault k ia addr n w).cfg = s.cfg :=
  rfl
@[simp] theorem State.takeFault_cfgIn (k : FaultKind) (ia addr : Word) (n : Nat) (w : IWord) : (s.takeFault k ia addr n w).cfgIn = s.cfgIn :=
  rfl
@[simp] theorem State.takeFault_fetchEnable (k : FaultKind) (ia addr : Word) (n : Nat) (w : IWord) : (s.takeFault k ia addr n w).fetchEnable = s.fetchEnable :=
  rfl
@[simp] theorem State.takeFault_cycle (k : FaultKind) (ia addr : Word) (n : Nat) (w : IWord) : (s.takeFault k ia addr n w).cycle = s.cycle :=
  rfl
@[simp] theorem State.takeFault_stalls (k : FaultKind) (ia addr : Word) (n : Nat) (w : IWord) : (s.takeFault k ia addr n w).stalls = s.stalls :=
  rfl
@[simp] theorem State.takeFault_imem (k : FaultKind) (ia addr : Word) (n : Nat) (w : IWord) : (s.takeFault k ia addr n w).imem = s.imem :=
  rfl
@[simp] theorem State.takeFault_dmem (k : FaultKind) (ia addr : Word) (n : Nat) (w : IWord) : (s.takeFault k ia addr n w).dmem = s.dmem :=
  rfl
@[simp] theorem State.takeFault_params (k : FaultKind) (ia addr : Word) (n : Nat) (w : IWord) : (s.takeFault k ia addr n w).params = s.params :=
  rfl
@[simp] theorem State.takeFault_dmemBusy (k : FaultKind) (ia addr : Word) (n : Nat) (w : IWord) : (s.takeFault k ia addr n w).dmemBusy = s.dmemBusy :=
  rfl

/-! ## faultOf -/

@[simp] theorem State.faultOf_x (e : Entry) (k : FaultKind) : (s.faultOf e k).x = s.x := rfl
@[simp] theorem State.faultOf_f (e : Entry) (k : FaultKind) : (s.faultOf e k).f = s.f := rfl
@[simp] theorem State.faultOf_pc (e : Entry) (k : FaultKind) : (s.faultOf e k).pc = s.pc := rfl
@[simp] theorem State.faultOf_semX (e : Entry) (k : FaultKind) : (s.faultOf e k).semX = s.semX :=
  rfl
@[simp] theorem State.faultOf_semF (e : Entry) (k : FaultKind) : (s.faultOf e k).semF = s.semF :=
  rfl
@[simp] theorem State.faultOf_semPc (e : Entry) (k : FaultKind) : (s.faultOf e k).semPc = s.semPc :=
  rfl
@[simp] theorem State.faultOf_slots (e : Entry) (k : FaultKind) : (s.faultOf e k).slots = s.slots :=
  rfl
@[simp] theorem State.faultOf_cfg (e : Entry) (k : FaultKind) : (s.faultOf e k).cfg = s.cfg := rfl
@[simp] theorem State.faultOf_cfgIn (e : Entry) (k : FaultKind) : (s.faultOf e k).cfgIn = s.cfgIn :=
  rfl
@[simp] theorem State.faultOf_fetchEnable (e : Entry) (k : FaultKind) : (s.faultOf e k).fetchEnable = s.fetchEnable :=
  rfl
@[simp] theorem State.faultOf_cycle (e : Entry) (k : FaultKind) : (s.faultOf e k).cycle = s.cycle :=
  rfl
@[simp] theorem State.faultOf_stalls (e : Entry) (k : FaultKind) : (s.faultOf e k).stalls = s.stalls :=
  rfl
@[simp] theorem State.faultOf_imem (e : Entry) (k : FaultKind) : (s.faultOf e k).imem = s.imem :=
  rfl
@[simp] theorem State.faultOf_dmem (e : Entry) (k : FaultKind) : (s.faultOf e k).dmem = s.dmem :=
  rfl
@[simp] theorem State.faultOf_params (e : Entry) (k : FaultKind) : (s.faultOf e k).params = s.params :=
  rfl
@[simp] theorem State.faultOf_dmemBusy (e : Entry) (k : FaultKind) : (s.faultOf e k).dmemBusy = s.dmemBusy :=
  rfl

/-! ## halt -/

@[simp] theorem State.halt_x : (s.halt).x = s.x := rfl
@[simp] theorem State.halt_f : (s.halt).f = s.f := rfl
@[simp] theorem State.halt_pc : (s.halt).pc = s.pc := rfl
@[simp] theorem State.halt_semX : (s.halt).semX = s.semX := rfl
@[simp] theorem State.halt_semF : (s.halt).semF = s.semF := rfl
@[simp] theorem State.halt_semPc : (s.halt).semPc = s.semPc := rfl
@[simp] theorem State.halt_slots : (s.halt).slots = s.slots := rfl
@[simp] theorem State.halt_faultRec : (s.halt).faultRec = s.faultRec := rfl
@[simp] theorem State.halt_cfg : (s.halt).cfg = s.cfg := rfl
@[simp] theorem State.halt_cfgIn : (s.halt).cfgIn = s.cfgIn := rfl
@[simp] theorem State.halt_fetchEnable : (s.halt).fetchEnable = s.fetchEnable := rfl
@[simp] theorem State.halt_cycle : (s.halt).cycle = s.cycle := rfl
@[simp] theorem State.halt_stalls : (s.halt).stalls = s.stalls := rfl
@[simp] theorem State.halt_imem : (s.halt).imem = s.imem := rfl
@[simp] theorem State.halt_dmem : (s.halt).dmem = s.dmem := rfl
@[simp] theorem State.halt_params : (s.halt).params = s.params := rfl
@[simp] theorem State.halt_dmemBusy : (s.halt).dmemBusy = s.dmemBusy := rfl

/-! ## memWrite -/

@[simp] theorem State.memWrite_x (a : Word) (n : Nat) (v : Word) : (s.memWrite a n v).x = s.x :=
  rfl
@[simp] theorem State.memWrite_f (a : Word) (n : Nat) (v : Word) : (s.memWrite a n v).f = s.f :=
  rfl
@[simp] theorem State.memWrite_pc (a : Word) (n : Nat) (v : Word) : (s.memWrite a n v).pc = s.pc :=
  rfl
@[simp] theorem State.memWrite_semX (a : Word) (n : Nat) (v : Word) : (s.memWrite a n v).semX = s.semX :=
  rfl
@[simp] theorem State.memWrite_semF (a : Word) (n : Nat) (v : Word) : (s.memWrite a n v).semF = s.semF :=
  rfl
@[simp] theorem State.memWrite_semPc (a : Word) (n : Nat) (v : Word) : (s.memWrite a n v).semPc = s.semPc :=
  rfl
@[simp] theorem State.memWrite_slots (a : Word) (n : Nat) (v : Word) : (s.memWrite a n v).slots = s.slots :=
  rfl
@[simp] theorem State.memWrite_runState (a : Word) (n : Nat) (v : Word) : (s.memWrite a n v).runState = s.runState :=
  rfl
@[simp] theorem State.memWrite_faultRec (a : Word) (n : Nat) (v : Word) : (s.memWrite a n v).faultRec = s.faultRec :=
  rfl
@[simp] theorem State.memWrite_cfg (a : Word) (n : Nat) (v : Word) : (s.memWrite a n v).cfg = s.cfg :=
  rfl
@[simp] theorem State.memWrite_cfgIn (a : Word) (n : Nat) (v : Word) : (s.memWrite a n v).cfgIn = s.cfgIn :=
  rfl
@[simp] theorem State.memWrite_fetchEnable (a : Word) (n : Nat) (v : Word) : (s.memWrite a n v).fetchEnable = s.fetchEnable :=
  rfl
@[simp] theorem State.memWrite_cycle (a : Word) (n : Nat) (v : Word) : (s.memWrite a n v).cycle = s.cycle :=
  rfl
@[simp] theorem State.memWrite_stalls (a : Word) (n : Nat) (v : Word) : (s.memWrite a n v).stalls = s.stalls :=
  rfl
@[simp] theorem State.memWrite_imem (a : Word) (n : Nat) (v : Word) : (s.memWrite a n v).imem = s.imem :=
  rfl
@[simp] theorem State.memWrite_params (a : Word) (n : Nat) (v : Word) : (s.memWrite a n v).params = s.params :=
  rfl
@[simp] theorem State.memWrite_dmemBusy (a : Word) (n : Nat) (v : Word) : (s.memWrite a n v).dmemBusy = s.dmemBusy :=
  rfl

/-! ## completeAt -/

@[simp] theorem State.completeAt_x (st : Stage) (e : Entry) : (s.completeAt st e).x = s.x := rfl
@[simp] theorem State.completeAt_f (st : Stage) (e : Entry) : (s.completeAt st e).f = s.f := rfl
@[simp] theorem State.completeAt_pc (st : Stage) (e : Entry) : (s.completeAt st e).pc = s.pc := rfl
@[simp] theorem State.completeAt_semX (st : Stage) (e : Entry) : (s.completeAt st e).semX = s.semX :=
  rfl
@[simp] theorem State.completeAt_semF (st : Stage) (e : Entry) : (s.completeAt st e).semF = s.semF :=
  rfl
@[simp] theorem State.completeAt_semPc (st : Stage) (e : Entry) : (s.completeAt st e).semPc = s.semPc :=
  rfl
@[simp] theorem State.completeAt_runState (st : Stage) (e : Entry) : (s.completeAt st e).runState = s.runState :=
  rfl
@[simp] theorem State.completeAt_faultRec (st : Stage) (e : Entry) : (s.completeAt st e).faultRec = s.faultRec :=
  rfl
@[simp] theorem State.completeAt_cfg (st : Stage) (e : Entry) : (s.completeAt st e).cfg = s.cfg :=
  rfl
@[simp] theorem State.completeAt_cfgIn (st : Stage) (e : Entry) : (s.completeAt st e).cfgIn = s.cfgIn :=
  rfl
@[simp] theorem State.completeAt_fetchEnable (st : Stage) (e : Entry) : (s.completeAt st e).fetchEnable = s.fetchEnable :=
  rfl
@[simp] theorem State.completeAt_cycle (st : Stage) (e : Entry) : (s.completeAt st e).cycle = s.cycle :=
  rfl
@[simp] theorem State.completeAt_stalls (st : Stage) (e : Entry) : (s.completeAt st e).stalls = s.stalls :=
  rfl
@[simp] theorem State.completeAt_imem (st : Stage) (e : Entry) : (s.completeAt st e).imem = s.imem :=
  rfl
@[simp] theorem State.completeAt_dmem (st : Stage) (e : Entry) : (s.completeAt st e).dmem = s.dmem :=
  rfl
@[simp] theorem State.completeAt_params (st : Stage) (e : Entry) : (s.completeAt st e).params = s.params :=
  rfl
@[simp] theorem State.completeAt_dmemBusy (st : Stage) (e : Entry) : (s.completeAt st e).dmemBusy = s.dmemBusy :=
  rfl

/-! ## commit -/

@[simp] theorem State.commit_pc (e : Entry) : (s.commit e).pc = s.pc :=
  by unfold State.commit; split <;> simp
@[simp] theorem State.commit_semPc (e : Entry) : (s.commit e).semPc = s.semPc :=
  by unfold State.commit; split <;> simp
@[simp] theorem State.commit_slots (e : Entry) : (s.commit e).slots = s.slots :=
  by unfold State.commit; split <;> simp
@[simp] theorem State.commit_runState (e : Entry) : (s.commit e).runState = s.runState :=
  by unfold State.commit; split <;> simp
@[simp] theorem State.commit_faultRec (e : Entry) : (s.commit e).faultRec = s.faultRec :=
  by unfold State.commit; split <;> simp
@[simp] theorem State.commit_cfg (e : Entry) : (s.commit e).cfg = s.cfg :=
  by unfold State.commit; split <;> simp
@[simp] theorem State.commit_cfgIn (e : Entry) : (s.commit e).cfgIn = s.cfgIn :=
  by unfold State.commit; split <;> simp
@[simp] theorem State.commit_fetchEnable (e : Entry) : (s.commit e).fetchEnable = s.fetchEnable :=
  by unfold State.commit; split <;> simp
@[simp] theorem State.commit_cycle (e : Entry) : (s.commit e).cycle = s.cycle :=
  by unfold State.commit; split <;> simp
@[simp] theorem State.commit_stalls (e : Entry) : (s.commit e).stalls = s.stalls :=
  by unfold State.commit; split <;> simp
@[simp] theorem State.commit_imem (e : Entry) : (s.commit e).imem = s.imem :=
  by unfold State.commit; split <;> simp
@[simp] theorem State.commit_dmem (e : Entry) : (s.commit e).dmem = s.dmem :=
  by unfold State.commit; split <;> simp
@[simp] theorem State.commit_params (e : Entry) : (s.commit e).params = s.params :=
  by unfold State.commit; split <;> simp
@[simp] theorem State.commit_dmemBusy (e : Entry) : (s.commit e).dmemBusy = s.dmemBusy :=
  by unfold State.commit; split <;> simp

/-! ## squashStage -/

@[simp] theorem State.squashStage_x (st : Stage) : (s.squashStage st).x = s.x :=
  by unfold State.squashStage; split <;> [rfl; (split <;> simp)]
@[simp] theorem State.squashStage_f (st : Stage) : (s.squashStage st).f = s.f :=
  by unfold State.squashStage; split <;> [rfl; (split <;> simp)]
@[simp] theorem State.squashStage_pc (st : Stage) : (s.squashStage st).pc = s.pc :=
  by unfold State.squashStage; split <;> [rfl; (split <;> simp)]
@[simp] theorem State.squashStage_semPc (st : Stage) : (s.squashStage st).semPc = s.semPc :=
  by unfold State.squashStage; split <;> [rfl; (split <;> simp)]
@[simp] theorem State.squashStage_runState (st : Stage) : (s.squashStage st).runState = s.runState :=
  by unfold State.squashStage; split <;> [rfl; (split <;> simp)]
@[simp] theorem State.squashStage_faultRec (st : Stage) : (s.squashStage st).faultRec = s.faultRec :=
  by unfold State.squashStage; split <;> [rfl; (split <;> simp)]
@[simp] theorem State.squashStage_cfg (st : Stage) : (s.squashStage st).cfg = s.cfg :=
  by unfold State.squashStage; split <;> [rfl; (split <;> simp)]
@[simp] theorem State.squashStage_cfgIn (st : Stage) : (s.squashStage st).cfgIn = s.cfgIn :=
  by unfold State.squashStage; split <;> [rfl; (split <;> simp)]
@[simp] theorem State.squashStage_fetchEnable (st : Stage) : (s.squashStage st).fetchEnable = s.fetchEnable :=
  by unfold State.squashStage; split <;> [rfl; (split <;> simp)]
@[simp] theorem State.squashStage_cycle (st : Stage) : (s.squashStage st).cycle = s.cycle :=
  by unfold State.squashStage; split <;> [rfl; (split <;> simp)]
@[simp] theorem State.squashStage_stalls (st : Stage) : (s.squashStage st).stalls = s.stalls :=
  by unfold State.squashStage; split <;> [rfl; (split <;> simp)]
@[simp] theorem State.squashStage_imem (st : Stage) : (s.squashStage st).imem = s.imem :=
  by unfold State.squashStage; split <;> [rfl; (split <;> simp)]
@[simp] theorem State.squashStage_dmem (st : Stage) : (s.squashStage st).dmem = s.dmem :=
  by unfold State.squashStage; split <;> [rfl; (split <;> simp)]
@[simp] theorem State.squashStage_params (st : Stage) : (s.squashStage st).params = s.params :=
  by unfold State.squashStage; split <;> [rfl; (split <;> simp)]
@[simp] theorem State.squashStage_dmemBusy (st : Stage) : (s.squashStage st).dmemBusy = s.dmemBusy :=
  by unfold State.squashStage; split <;> [rfl; (split <;> simp)]

/-! ## beginCycle -/

@[simp] theorem State.beginCycle_x : (s.beginCycle).x = s.x := rfl
@[simp] theorem State.beginCycle_f : (s.beginCycle).f = s.f := rfl
@[simp] theorem State.beginCycle_pc : (s.beginCycle).pc = s.pc := rfl
@[simp] theorem State.beginCycle_semX : (s.beginCycle).semX = s.semX := rfl
@[simp] theorem State.beginCycle_semF : (s.beginCycle).semF = s.semF := rfl
@[simp] theorem State.beginCycle_semPc : (s.beginCycle).semPc = s.semPc := rfl
@[simp] theorem State.beginCycle_faultRec : (s.beginCycle).faultRec = s.faultRec := rfl
@[simp] theorem State.beginCycle_cfg : (s.beginCycle).cfg = s.cfg := rfl
@[simp] theorem State.beginCycle_cfgIn : (s.beginCycle).cfgIn = s.cfgIn := rfl
@[simp] theorem State.beginCycle_fetchEnable : (s.beginCycle).fetchEnable = s.fetchEnable := rfl
@[simp] theorem State.beginCycle_stalls : (s.beginCycle).stalls = s.stalls := rfl
@[simp] theorem State.beginCycle_imem : (s.beginCycle).imem = s.imem := rfl
@[simp] theorem State.beginCycle_dmem : (s.beginCycle).dmem = s.dmem := rfl
@[simp] theorem State.beginCycle_params : (s.beginCycle).params = s.params := rfl
@[simp] theorem State.beginCycle_dmemBusy : (s.beginCycle).dmemBusy = s.dmemBusy := rfl

/-! ## issue -/

@[simp] theorem State.issue_x (i : Instr) : (s.issue i).x = s.x := rfl
@[simp] theorem State.issue_f (i : Instr) : (s.issue i).f = s.f := rfl
@[simp] theorem State.issue_pc (i : Instr) : (s.issue i).pc = s.pc := rfl
@[simp] theorem State.issue_semX (i : Instr) : (s.issue i).semX = s.semX := rfl
@[simp] theorem State.issue_semF (i : Instr) : (s.issue i).semF = s.semF := rfl
@[simp] theorem State.issue_semPc (i : Instr) : (s.issue i).semPc = s.semPc := rfl
@[simp] theorem State.issue_runState (i : Instr) : (s.issue i).runState = s.runState := rfl
@[simp] theorem State.issue_faultRec (i : Instr) : (s.issue i).faultRec = s.faultRec := rfl
@[simp] theorem State.issue_cfg (i : Instr) : (s.issue i).cfg = s.cfg := rfl
@[simp] theorem State.issue_cfgIn (i : Instr) : (s.issue i).cfgIn = s.cfgIn := rfl
@[simp] theorem State.issue_fetchEnable (i : Instr) : (s.issue i).fetchEnable = s.fetchEnable :=
  rfl
@[simp] theorem State.issue_cycle (i : Instr) : (s.issue i).cycle = s.cycle := rfl
@[simp] theorem State.issue_stalls (i : Instr) : (s.issue i).stalls = s.stalls := rfl
@[simp] theorem State.issue_imem (i : Instr) : (s.issue i).imem = s.imem := rfl
@[simp] theorem State.issue_dmem (i : Instr) : (s.issue i).dmem = s.dmem := rfl
@[simp] theorem State.issue_params (i : Instr) : (s.issue i).params = s.params := rfl
@[simp] theorem State.issue_dmemBusy (i : Instr) : (s.issue i).dmemBusy = s.dmemBusy := rfl

/-! ## advanceInto -/

@[simp] theorem State.advanceInto_x (st : Stage) : (s.advanceInto st).x = s.x :=
  by unfold State.advanceInto; split <;> [rfl; (split <;> rfl)]
@[simp] theorem State.advanceInto_f (st : Stage) : (s.advanceInto st).f = s.f :=
  by unfold State.advanceInto; split <;> [rfl; (split <;> rfl)]
@[simp] theorem State.advanceInto_pc (st : Stage) : (s.advanceInto st).pc = s.pc :=
  by unfold State.advanceInto; split <;> [rfl; (split <;> rfl)]
@[simp] theorem State.advanceInto_semX (st : Stage) : (s.advanceInto st).semX = s.semX :=
  by unfold State.advanceInto; split <;> [rfl; (split <;> rfl)]
@[simp] theorem State.advanceInto_semF (st : Stage) : (s.advanceInto st).semF = s.semF :=
  by unfold State.advanceInto; split <;> [rfl; (split <;> rfl)]
@[simp] theorem State.advanceInto_semPc (st : Stage) : (s.advanceInto st).semPc = s.semPc :=
  by unfold State.advanceInto; split <;> [rfl; (split <;> rfl)]
@[simp] theorem State.advanceInto_runState (st : Stage) : (s.advanceInto st).runState = s.runState :=
  by unfold State.advanceInto; split <;> [rfl; (split <;> rfl)]
@[simp] theorem State.advanceInto_faultRec (st : Stage) : (s.advanceInto st).faultRec = s.faultRec :=
  by unfold State.advanceInto; split <;> [rfl; (split <;> rfl)]
@[simp] theorem State.advanceInto_cfg (st : Stage) : (s.advanceInto st).cfg = s.cfg :=
  by unfold State.advanceInto; split <;> [rfl; (split <;> rfl)]
@[simp] theorem State.advanceInto_cfgIn (st : Stage) : (s.advanceInto st).cfgIn = s.cfgIn :=
  by unfold State.advanceInto; split <;> [rfl; (split <;> rfl)]
@[simp] theorem State.advanceInto_fetchEnable (st : Stage) : (s.advanceInto st).fetchEnable = s.fetchEnable :=
  by unfold State.advanceInto; split <;> [rfl; (split <;> rfl)]
@[simp] theorem State.advanceInto_cycle (st : Stage) : (s.advanceInto st).cycle = s.cycle :=
  by unfold State.advanceInto; split <;> [rfl; (split <;> rfl)]
@[simp] theorem State.advanceInto_stalls (st : Stage) : (s.advanceInto st).stalls = s.stalls :=
  by unfold State.advanceInto; split <;> [rfl; (split <;> rfl)]
@[simp] theorem State.advanceInto_imem (st : Stage) : (s.advanceInto st).imem = s.imem :=
  by unfold State.advanceInto; split <;> [rfl; (split <;> rfl)]
@[simp] theorem State.advanceInto_dmem (st : Stage) : (s.advanceInto st).dmem = s.dmem :=
  by unfold State.advanceInto; split <;> [rfl; (split <;> rfl)]
@[simp] theorem State.advanceInto_params (st : Stage) : (s.advanceInto st).params = s.params :=
  by unfold State.advanceInto; split <;> [rfl; (split <;> rfl)]
@[simp] theorem State.advanceInto_dmemBusy (st : Stage) : (s.advanceInto st).dmemBusy = s.dmemBusy :=
  by unfold State.advanceInto; split <;> [rfl; (split <;> rfl)]

/-! ## advanced -/

@[simp] theorem State.advanced_x : (s.advanced).x = s.x := rfl
@[simp] theorem State.advanced_f : (s.advanced).f = s.f := rfl
@[simp] theorem State.advanced_semX : (s.advanced).semX = s.semX := rfl
@[simp] theorem State.advanced_semF : (s.advanced).semF = s.semF := rfl
@[simp] theorem State.advanced_semPc : (s.advanced).semPc = s.semPc := rfl
@[simp] theorem State.advanced_slots : (s.advanced).slots = s.slots := rfl
@[simp] theorem State.advanced_runState : (s.advanced).runState = s.runState := rfl
@[simp] theorem State.advanced_faultRec : (s.advanced).faultRec = s.faultRec := rfl
@[simp] theorem State.advanced_cfg : (s.advanced).cfg = s.cfg := rfl
@[simp] theorem State.advanced_cfgIn : (s.advanced).cfgIn = s.cfgIn := rfl
@[simp] theorem State.advanced_fetchEnable : (s.advanced).fetchEnable = s.fetchEnable := rfl
@[simp] theorem State.advanced_cycle : (s.advanced).cycle = s.cycle := rfl
@[simp] theorem State.advanced_stalls : (s.advanced).stalls = s.stalls := rfl
@[simp] theorem State.advanced_imem : (s.advanced).imem = s.imem := rfl
@[simp] theorem State.advanced_dmem : (s.advanced).dmem = s.dmem := rfl
@[simp] theorem State.advanced_params : (s.advanced).params = s.params := rfl
@[simp] theorem State.advanced_dmemBusy : (s.advanced).dmemBusy = s.dmemBusy := rfl

/-! ## drained -/

@[simp] theorem State.drained_x : (s.drained).x = s.x := rfl
@[simp] theorem State.drained_f : (s.drained).f = s.f := rfl
@[simp] theorem State.drained_pc : (s.drained).pc = s.pc := rfl
@[simp] theorem State.drained_semX : (s.drained).semX = s.semX := rfl
@[simp] theorem State.drained_semF : (s.drained).semF = s.semF := rfl
@[simp] theorem State.drained_semPc : (s.drained).semPc = s.semPc := rfl
@[simp] theorem State.drained_runState : (s.drained).runState = s.runState := rfl
@[simp] theorem State.drained_faultRec : (s.drained).faultRec = s.faultRec := rfl
@[simp] theorem State.drained_cfg : (s.drained).cfg = s.cfg := rfl
@[simp] theorem State.drained_cfgIn : (s.drained).cfgIn = s.cfgIn := rfl
@[simp] theorem State.drained_fetchEnable : (s.drained).fetchEnable = s.fetchEnable := rfl
@[simp] theorem State.drained_cycle : (s.drained).cycle = s.cycle := rfl
@[simp] theorem State.drained_stalls : (s.drained).stalls = s.stalls := rfl
@[simp] theorem State.drained_imem : (s.drained).imem = s.imem := rfl
@[simp] theorem State.drained_dmem : (s.drained).dmem = s.dmem := rfl
@[simp] theorem State.drained_params : (s.drained).params = s.params := rfl
@[simp] theorem State.drained_dmemBusy : (s.drained).dmemBusy = s.dmemBusy := rfl

/-! ## The field an update is about -/

@[simp] theorem State.setSlot_slots (st : Stage) (e : Option Entry) :
    (s.setSlot st e).slots = s.slots.set st e := rfl

@[simp] theorem Slots.get_set_same (p : Slots) (st : Stage) (e : Option Entry) :
    (p.set st e).get st = e := by cases st <;> rfl

theorem Slots.get_set_ne (p : Slots) {st st' : Stage} (e : Option Entry) (h : st ≠ st') :
    (p.set st e).get st' = p.get st' := by cases st <;> cases st' <;> first | rfl | exact absurd rfl h

theorem Slots.get_set (p : Slots) (st st' : Stage) (e : Option Entry) :
    (p.set st e).get st' = if st = st' then e else p.get st' := by
  cases st <;> cases st' <;> rfl

/-- Setting a slot to what it holds changes nothing. -/
theorem Slots.set_get (p : Slots) (st : Stage) : p.set st (p.get st) = p := by cases st <;> rfl

theorem State.setSlot_self (st : Stage) (e : Option Entry) (h : s.slot st = e) :
    s.setSlot st e = s := by
  subst h
  unfold State.setSlot State.slot
  rw [Slots.set_get]

theorem State.slot_setSlot (st st' : Stage) (e : Option Entry) :
    (s.setSlot st e).slot st' = if st = st' then e else s.slot st' :=
  Slots.get_set s.slots st st' e

@[simp] theorem State.slot_setSlot_same (st : Stage) (e : Option Entry) :
    (s.setSlot st e).slot st = e := Slots.get_set_same s.slots st e

theorem State.slot_setSlot_ne {st st' : Stage} (e : Option Entry) (h : st ≠ st') :
    (s.setSlot st e).slot st' = s.slot st' := Slots.get_set_ne s.slots e h

/-- A slot is read from the field `slots`. -/
theorem State.slot_congr {s t : State} (h : s.slots = t.slots) (st : Stage) : s.slot st = t.slot st := by
  unfold State.slot; rw [h]

theorem State.slot_completeAt (st st' : Stage) (e : Entry) :
    (s.completeAt st e).slot st' = if st = st' then some { e with done := true } else s.slot st' :=
  State.slot_setSlot s st st' _

@[simp] theorem State.faultOf_runState (e : Entry) (k : FaultKind) :
    (s.faultOf e k).runState = .faulted := rfl

@[simp] theorem State.takeFault_runState (k : FaultKind) (ia addr : Word) (n : Nat) (w : IWord) :
    (s.takeFault k ia addr n w).runState = .faulted := rfl

@[simp] theorem State.takeFault_faultRec (k : FaultKind) (ia addr : Word) (n : Nat) (w : IWord) :
    (s.takeFault k ia addr n w).faultRec =
      some { kind := k, code := k.code, ia := ia, addr := addr, align := n, word := w } := rfl

@[simp] theorem State.faultOf_faultRec (e : Entry) (k : FaultKind) :
    (s.faultOf e k).faultRec =
      some { kind := k, code := k.code, ia := e.ia, addr := 0#64, align := 0, word := e.word } := rfl

@[simp] theorem State.halt_runState : s.halt.runState = .halted := rfl

@[simp] theorem State.beginCycle_runState : s.beginCycle.runState = .running := rfl

@[simp] theorem State.beginCycle_cycle : s.beginCycle.cycle = s.cycle + 1 := rfl

@[simp] theorem State.memWrite_dmem (a : Word) (n : Nat) (v : Word) :
    (s.memWrite a n v).dmem = Memory.writeBytes s.dmem a.toNat v n := rfl

@[simp] theorem State.advanced_pc : s.advanced.pc = s.pc + 4#64 := rfl

@[simp] theorem State.drained_slots : s.drained.slots = Slots.empty := rfl

/-! ## Registers (10_state.md R20 to R29) -/

/-- `x[0]` reads 0 (R21). -/
@[simp] theorem State.readX_zero : s.readX 0 = 0#64 := rfl

/-- A write to `x[0]` is discarded (R21). -/
@[simp] theorem State.writeX_zero (v : Word) : s.writeX 0 v = s := rfl

theorem State.readX_writeX (i j : RegIdx) (v : Word) :
    (s.writeX i v).readX j = if i = j ∧ i ≠ 0 then v else s.readX j := by
  unfold State.writeX State.readX
  by_cases hi : i = 0
  · simp [hi]
  · by_cases hj : j = 0
    · simp [hi, hj]
    · have hne : i.val = j.val ↔ i = j := Fin.ext_iff.symm
      simp [hi, hj, Vector.get_eq_getElem, Vector.getElem_set, hne]

theorem State.readF_writeF (i j : RegIdx) (v : Word) :
    (s.writeF i v).readF j = if i = j then v else s.readF j := by
  have hne : i.val = j.val ↔ i = j := Fin.ext_iff.symm
  simp [State.writeF, State.readF, Vector.get_eq_getElem, Vector.getElem_set, hne]

theorem State.readX_congr {s t : State} (h : s.x = t.x) (i : RegIdx) : s.readX i = t.readX i := by
  unfold State.readX; rw [h]

theorem State.readF_congr {s t : State} (h : s.f = t.f) (i : RegIdx) : s.readF i = t.readF i := by
  unfold State.readF; rw [h]

theorem State.readReg_congr {s t : State} (hx : s.x = t.x) (hf : s.f = t.f) (r : RegRef) :
    s.readReg r = t.readReg r := by
  cases r
  · exact State.readX_congr hx _
  · exact State.readF_congr hf _

/-! ## Semaphores (10_state.md R31) -/

theorem State.sem_setSem (r q : RegRef) (n : Nat) :
    (s.setSem r n).sem q = if r = q then n else s.sem q := by
  cases r <;> cases q <;>
    simp [State.setSem, State.sem, Vector.get_eq_getElem, Vector.getElem_set, ← Fin.ext_iff]

theorem State.sem_congr {s t : State} (hx : s.semX = t.semX) (hf : s.semF = t.semF) (r : RegRef) :
    s.sem r = t.sem r := by
  cases r <;> simp [State.sem, hx, hf]

theorem State.sem_claim (r q : RegRef) :
    (s.claim r).sem q = if r = q then s.sem q + 1 else s.sem q := by
  unfold State.claim
  rw [State.sem_setSem]
  split
  · subst_vars; rfl
  · rfl

theorem State.sem_release (r q : RegRef) :
    (s.release r).sem q = if r = q then s.sem q - 1 else s.sem q := by
  unfold State.release
  rw [State.sem_setSem]
  split
  · subst_vars; rfl
  · rfl

/-- Two settings of one semaphore: the later counts. -/
@[simp] theorem State.setSem_setSem (r : RegRef) (m n : Nat) :
    (s.setSem r m).setSem r n = s.setSem r n := by
  cases r <;> simp [State.setSem]

/-- Setting a semaphore to what it is changes nothing. -/
theorem State.setSem_self (r : RegRef) (n : Nat) (h : s.sem r = n) : s.setSem r n = s := by
  subst h
  cases r <;> simp [State.setSem, State.sem, Vector.get_eq_getElem]

end Sys2Proof.Machine
end

