-- ==== Sys2Proof/Laws/Hooks.lean ====
section
/-!
SUPPORT. What an instruction does in each stage, said once for all instructions: every meaning is
`runInstr` of its row of 40_stage_hooks.md R131 (`exec_row`), and one lemma per hook lists what that
hook can do.
-/

namespace Sys2Proof.Machine

/-! ## Every meaning is its row -/

/-- The width of a storing memoryHook. -/
def MemAction.storeWidth : MemAction → Option Nat
  | .store n => some n
  | .nothing => none
  | .load _ _ => none

/-- The width of a loading memoryHook. -/
def MemAction.loadWidth : MemAction → Option Nat
  | .load n _ => some n
  | .nothing => none
  | .store _ => none

/-- What the rows of all instructions have in common with the table of R131 as Safety.lean reads it. -/
structure RowOf (i : Instr) (b : Behaviour) : Prop where
  runs : ∀ s, exec i s = runInstr i b s
  ifSources : b.ifSources = ifSourcesOf i
  idSources : b.idSources = idSourcesOf i
  dst : b.dst = destinationOf i
  oldOf : b.oldOf = oldValueOf i
  halts : b.halts = decide (i = .halt)
  stores : b.memory.storeWidth = storeWidthOf i
  loads : b.memory.loadWidth = loadWidthOf i
  staysOn : isTransfer i = false → ∀ ia vs, b.target ia vs = none

/-- Every instruction has a row. -/
theorem exec_row (i : Instr) : ∃ b, RowOf i b := by
  cases i <;>
    refine ⟨_, fun _ => rfl, rfl, rfl, rfl, rfl, rfl, rfl, rfl, ?_⟩ <;>
    first
    | exact fun _ _ _ => rfl
    | exact fun h => absurd h Bool.noConfusion

/-- A row that stores `n` bytes belongs to a store of that width. -/
theorem RowOf.store {i : Instr} {b : Behaviour} (h : RowOf i b) {n : Nat}
    (hn : b.memory = .store n) : storeWidthOf i = some n := by
  rw [← h.stores, hn]; rfl

/-- The row of an instruction knows its destination as it is claimed. -/
theorem RowOf.claimed {i : Instr} {b : Behaviour} (h : RowOf i b) :
    effectiveDst b.dst = claimedOf i := by
  rw [h.dst]; rfl

/-! ## The hook that is due -/

/-- The hook of a stage as a function of the row. -/
def hookAt (i : Instr) (b : Behaviour) (st : Stage) (e : Entry) (s : State) : State :=
  match st with
  | .IF => fetchHook i b e s
  | .ID => decodeHook b e s
  | .EX => executeHook b e s
  | .MEM => memoryHook b e s
  | .WB => writebackHook b e s

/-- An instruction whose hook is due answers a next state. -/
theorem runInstr_due {i : Instr} {b : Behaviour} {s : State} {st : Stage} {e : Entry}
    (h : s.due = some (st, e)) : runInstr i b s = .next (hookAt i b st e s) := by
  unfold runInstr
  rw [h]
  cases st <;> rfl

/-- Where an instruction answers a next state, a hook was due and the state is that hook's. -/
theorem runInstr_next {i : Instr} {b : Behaviour} {s t : State} (h : runInstr i b s = .next t) :
    ∃ st e, s.due = some (st, e) ∧ t = hookAt i b st e s := by
  cases hd : s.due with
  | none => unfold runInstr at h; rw [hd] at h; cases h
  | some p =>
    obtain ⟨st, e⟩ := p
    rw [runInstr_due hd] at h
    cases h
    exact ⟨st, e, rfl, rfl⟩

/-- Where no hook is due an instruction answers the model's own fault. -/
theorem runInstr_none {i : Instr} {b : Behaviour} {s : State} (h : s.due = none) :
    runInstr i b s = .fault .noHookDue := by
  unfold runInstr; rw [h]

/-! ## Which entry is due -/

/-- Nothing is waiting in a stage: it is empty or its entry is done. -/
def State.settled (s : State) (st : Stage) : Prop := ∀ e, s.slot st = some e → e.done = true

theorem State.pendingAt_settled {s : State} {st : Stage} (h : s.settled st) :
    s.pendingAt st = none := by
  unfold State.pendingAt
  split
  · rfl
  · rw [if_pos (h _ ‹_›)]

theorem State.pendingAt_undone {s : State} {st : Stage} {e : Entry} (h : s.slot st = some e)
    (hd : e.done = false) : s.pendingAt st = some (st, e) := by
  unfold State.pendingAt
  rw [h]
  simp [hd]

/-- The stages older than a stage. -/
def Stage.older : Stage → List Stage
  | .IF => [.ID, .EX, .MEM, .WB]
  | .ID => [.EX, .MEM, .WB]
  | .EX => [.MEM, .WB]
  | .MEM => [.WB]
  | .WB => []

/-- An undone entry behind settled stages is due. -/
theorem State.due_of_undone {s : State} {st : Stage} {e : Entry} (h : s.slot st = some e)
    (hd : e.done = false) (ho : ∀ o ∈ st.older, s.settled o) : s.due = some (st, e) := by
  unfold State.due
  cases st <;>
    simp only [Stage.older, List.mem_cons, List.not_mem_nil, or_false, forall_eq_or_imp, forall_eq,
      false_imp_iff] at ho <;>
    simp [ho, State.pendingAt_settled, State.pendingAt_undone h hd]

/-- What is due stands in its stage, undone, behind settled stages. -/
theorem State.due_elim {s : State} {st : Stage} {e : Entry} (h : s.due = some (st, e)) :
    s.slot st = some e ∧ e.done = false ∧ ∀ o ∈ st.older, s.settled o := by
  have key : ∀ p : Stage, (s.pendingAt p = none ∧ s.settled p) ∨
      ∃ k, s.pendingAt p = some (p, k) ∧ s.slot p = some k ∧ k.done = false := by
    intro p
    unfold State.pendingAt State.settled
    cases hp : s.slot p with
    | none => simp
    | some k => cases hk : k.done <;> simp [hk]
  unfold State.due at h
  rcases key .WB with ⟨h0, k0⟩ | ⟨w, h0, s0, d0⟩ <;> rw [h0] at h
  · rcases key .MEM with ⟨h1, k1⟩ | ⟨w, h1, s1, d1⟩ <;> rw [h1] at h
    · rcases key .EX with ⟨h2, k2⟩ | ⟨w, h2, s2, d2⟩ <;> rw [h2] at h
      · rcases key .ID with ⟨h3, k3⟩ | ⟨w, h3, s3, d3⟩ <;> rw [h3] at h
        · rcases key .IF with ⟨h4, k4⟩ | ⟨w, h4, s4, d4⟩ <;> rw [h4] at h
          · cases h
          · cases h; exact ⟨s4, d4, by simp [Stage.older, k0, k1, k2, k3]⟩
        · cases h; exact ⟨s3, d3, by simp [Stage.older, k0, k1, k2]⟩
      · cases h; exact ⟨s2, d2, by simp [Stage.older, k0, k1]⟩
    · cases h; exact ⟨s1, d1, by simp [Stage.older, k0]⟩
  · cases h; exact ⟨s0, d0, by simp [Stage.older]⟩

/-! ## One lemma per hook -/

/-- The squash of a control transfer changes nothing: it is raised in IF (R405). -/
@[simp] theorem State.squashYounger_IF (s : State) : s.squashYounger .IF = s := rfl

/-- The fetchHook stalls, transfers control or lets the pc advance (R125, R404). -/
theorem fetchHook_cases (i : Instr) (b : Behaviour) (e : Entry) (s : State) :
    (s.readSources b.ifSources = none ∧ fetchHook i b e s = s.stall .raw) ∨
    (∃ vs p, s.readSources b.ifSources = some vs ∧ b.target e.ia vs = some p ∧
      fetchHook i b e s = { s.completeAt .IF { e with ins := some i } with pc := p }) ∨
    (∃ vs, s.readSources b.ifSources = some vs ∧ b.target e.ia vs = none ∧
      fetchHook i b e s =
        { s.completeAt .IF { e with ins := some i } with
          pc := e.ia + 4#64, fetchEnable := s.fetchEnable && !b.halts }) := by
  unfold fetchHook
  cases hr : s.readSources b.ifSources with
  | none => exact Or.inl ⟨rfl, rfl⟩
  | some vs =>
    cases ht : b.target e.ia vs with
    | some p => exact Or.inr (Or.inl ⟨vs, p, rfl, ht, by simp [ht]⟩)
    | none => exact Or.inr (Or.inr ⟨vs, rfl, ht, by simp [ht, nextAddress]⟩)

/-- The decodeHook stalls on a source, stalls on its destination, or latches and claims (R126). -/
theorem decodeHook_cases (b : Behaviour) (e : Entry) (s : State) :
    (s.readSources b.idSources = none ∧ decodeHook b e s = s.stall .raw) ∨
    (∃ vs, s.readSources b.idSources = some vs ∧ s.wawBusy (effectiveDst b.dst) = true ∧
      decodeHook b e s = s.stall .waw) ∨
    (∃ vs, s.readSources b.idSources = some vs ∧ s.wawBusy (effectiveDst b.dst) = false ∧
      decodeHook b e s = (s.claimDst (effectiveDst b.dst)).completeAt .ID
        { latch b vs s e with
          dst := effectiveDst b.dst, claimed := (effectiveDst b.dst).isSome }) := by
  unfold decodeHook
  cases hr : s.readSources b.idSources with
  | none => exact Or.inl ⟨rfl, rfl⟩
  | some vs =>
    cases hw : s.wawBusy (effectiveDst b.dst) with
    | true => exact Or.inr (Or.inl ⟨vs, rfl, rfl, by simp [hw]⟩)
    | false => exact Or.inr (Or.inr ⟨vs, rfl, rfl, by simp [hw]⟩)

/-- The executeHook does nothing, sets the effective address, sets the result, or faults (R128). -/
theorem executeHook_cases (b : Behaviour) (e : Entry) (s : State) :
    (∃ r v a, executeHook b e s =
      s.completeAt .EX { e with res := r, resValid := v, ea := a }) ∨
    (∃ k : ArithKind, Cfg.masks s.cfg k = false ∧ executeHook b e s = s.faultOf e k.toFaultKind) := by
  unfold executeHook
  split
  · exact Or.inl ⟨e.res, e.resValid, e.ea, rfl⟩
  · rename_i a _
    exact Or.inl ⟨e.res, e.resValid, a, rfl⟩
  · rename_i r _
    cases r with
    | value v => exact Or.inl ⟨v, true, e.ea, rfl⟩
    | fault k v =>
      simp only [ArithRes.gate]
      cases hk : Cfg.masks s.cfg k
      · exact Or.inr ⟨k, hk, rfl⟩
      · exact Or.inl ⟨v, true, e.ea, rfl⟩

/-- A misaligned access fails its first check (20_memory.md R68, R70). -/
theorem State.checkAccess_misaligned {s : State} {ea : Word} {n : Nat} (h : ea.toNat % n ≠ 0) :
    s.checkAccess ea n = .misaligned := by
  simp [State.checkAccess, aligned, h]

/-- An aligned access beyond DMEM fails the second (R69, R70). -/
theorem State.checkAccess_outOfRange {s : State} {ea : Word} {n : Nat} (ha : ea.toNat % n = 0)
    (h : s.params.dmemBytes < ea.toNat + n) : s.checkAccess ea n = .outOfRange := by
  simp [State.checkAccess, aligned, inRange, ha, h]

/-- An access that passes both meets the port (R80). -/
theorem State.checkAccess_port {s : State} {ea : Word} {n : Nat} (ha : ea.toNat % n = 0)
    (hr : ea.toNat + n ≤ s.params.dmemBytes) :
    s.checkAccess ea n = if s.portBusy then .busy else .ok := by
  simp [State.checkAccess, aligned, inRange, ha, hr]

/-- An access that passes all three is performed (R70). -/
theorem State.checkAccess_accessible {s : State} {ea : Word} {n : Nat} (h : s.Accessible ea n) :
    s.checkAccess ea n = .ok := by
  rw [State.checkAccess_port h.aligned h.inRange, h.free]; rfl

/-- What a load or store does, by the outcome of its checks (R70). -/
theorem withAccess_of_check {n : Nat} {e : Entry} {s access : State} {c : AccessCheck} :
    s.checkAccess e.ea n = c → withAccess n e s access =
      match c with
      | .misaligned => s.takeFault .alignmentFault e.ia e.ea n e.word
      | .outOfRange => s.takeFault .addressFault e.ia e.ea 0 e.word
      | .busy => s.stall .structural
      | .ok => access := by
  rintro rfl
  unfold withAccess
  cases s.checkAccess e.ea n <;> rfl

/-- The memoryHook does nothing, loads, stores, stalls on the port, or faults (R130, 20_memory.md
R70). -/
theorem memoryHook_cases (b : Behaviour) (e : Entry) (s : State) :
    (∃ r v, memoryHook b e s = s.completeAt .MEM { e with res := r, resValid := v }) ∨
    (∃ n, b.memory = .store n ∧ s.checkAccess e.ea n = .ok ∧
      memoryHook b e s = (s.memWrite e.ea n e.b).completeAt .MEM e) ∨
    memoryHook b e s = s.stall .structural ∨
    (∃ k n, memoryHook b e s = s.takeFault k e.ia e.ea n e.word) := by
  unfold memoryHook
  split
  · exact Or.inl ⟨e.res, e.resValid, rfl⟩
  · rename_i n x _
    unfold withAccess
    split
    · exact Or.inr (Or.inr (Or.inr ⟨_, _, rfl⟩))
    · exact Or.inr (Or.inr (Or.inr ⟨_, _, rfl⟩))
    · exact Or.inr (Or.inr (Or.inl rfl))
    · exact Or.inl ⟨x.extend n (s.memRead e.ea n), true, rfl⟩
  · rename_i n hn
    unfold withAccess
    split
    · exact Or.inr (Or.inr (Or.inr ⟨_, _, rfl⟩))
    · exact Or.inr (Or.inr (Or.inr ⟨_, _, rfl⟩))
    · exact Or.inr (Or.inr (Or.inl rfl))
    · exact Or.inr (Or.inl ⟨n, hn, ‹_›, rfl⟩)

/-- The commit of an entry that holds no claim does nothing. -/
theorem State.commit_unclaimed (s : State) {e : Entry} (h : e.claimed = false) : s.commit e = s := by
  unfold State.commit; rw [h]

/-- The commit of a claim writes the register and releases it (R129). -/
theorem State.commit_claimed (s : State) {e : Entry} {d : RegRef} (h : e.claimed = true)
    (hd : e.dst = some d) : s.commit e = (s.writeReg d e.res).release d := by
  unfold State.commit; rw [h, hd]

/-- The writebackHook commits and is done, or commits and halts (R129, 60_exceptions.md R362). -/
theorem writebackHook_cases (b : Behaviour) (e : Entry) (s : State) :
    (b.halts = true ∧ writebackHook b e s =
      ((s.commit e).setSlot .WB (some { e with claimed := false })).halt) ∨
    (b.halts = false ∧ writebackHook b e s =
      (s.commit e).completeAt .WB { e with claimed := false }) := by
  unfold writebackHook
  cases b.halts
  · exact Or.inr ⟨rfl, rfl⟩
  · exact Or.inl ⟨rfl, rfl⟩

/-! ## What no hook touches -/

/-- Every hook leaves the configuration, the inputs, the sizes, the instruction memory, the cycle counter
and `sem.pc` alone. -/
theorem hookAt_constant (i : Instr) (b : Behaviour) (st : Stage) (e : Entry) (s : State) :
    let t := hookAt i b st e s
    t.cfg = s.cfg ∧ t.cfgIn = s.cfgIn ∧ t.params = s.params ∧ t.dmemBusy = s.dmemBusy ∧
      t.imem = s.imem ∧ t.cycle = s.cycle ∧ t.semPc = s.semPc := by
  cases st
  · rcases fetchHook_cases i b e s with ⟨_, h⟩ | ⟨_, _, _, _, h⟩ | ⟨_, _, _, h⟩ <;>
      simp [hookAt, h]
  · rcases decodeHook_cases b e s with ⟨_, h⟩ | ⟨_, _, _, h⟩ | ⟨_, _, _, h⟩ <;> simp [hookAt, h]
  · rcases executeHook_cases b e s with ⟨_, _, _, h⟩ | ⟨_, _, h⟩ <;> simp [hookAt, h]
  · rcases memoryHook_cases b e s with ⟨_, _, h⟩ | ⟨_, _, _, h⟩ | h | ⟨_, _, h⟩ <;>
      simp [hookAt, h]
  · rcases writebackHook_cases b e s with ⟨_, h⟩ | ⟨_, h⟩ <;> simp [hookAt, h]

/-- Registers are written in WB only (10_state.md R23, R29). -/
theorem hookAt_registers (i : Instr) (b : Behaviour) (st : Stage) (e : Entry) (s : State)
    (hst : st ≠ .WB) : (hookAt i b st e s).x = s.x ∧ (hookAt i b st e s).f = s.f := by
  cases st
  · rcases fetchHook_cases i b e s with ⟨_, h⟩ | ⟨_, _, _, _, h⟩ | ⟨_, _, _, h⟩ <;>
      simp [hookAt, h]
  · rcases decodeHook_cases b e s with ⟨_, h⟩ | ⟨_, _, _, h⟩ | ⟨_, _, _, h⟩ <;> simp [hookAt, h]
  · rcases executeHook_cases b e s with ⟨_, _, _, h⟩ | ⟨_, _, h⟩ <;> simp [hookAt, h]
  · rcases memoryHook_cases b e s with ⟨_, _, h⟩ | ⟨_, _, _, h⟩ | h | ⟨_, _, h⟩ <;>
      simp [hookAt, h]
  · exact absurd rfl hst

/-- Data memory is written by a storing memoryHook only (20_memory.md R67, R78). -/
theorem hookAt_dmem (i : Instr) (b : Behaviour) (st : Stage) (e : Entry) (s : State) :
    (hookAt i b st e s).dmem = s.dmem ∨
    (st = .MEM ∧ ∃ n, b.memory = .store n ∧ s.checkAccess e.ea n = .ok ∧
      (hookAt i b st e s).dmem = Memory.writeBytes s.dmem e.ea.toNat e.b n) := by
  cases st
  · rcases fetchHook_cases i b e s with ⟨_, h⟩ | ⟨_, _, _, _, h⟩ | ⟨_, _, _, h⟩ <;>
      simp [hookAt, h]
  · rcases decodeHook_cases b e s with ⟨_, h⟩ | ⟨_, _, _, h⟩ | ⟨_, _, _, h⟩ <;> simp [hookAt, h]
  · rcases executeHook_cases b e s with ⟨_, _, _, h⟩ | ⟨_, _, h⟩ <;> simp [hookAt, h]
  · rcases memoryHook_cases b e s with ⟨_, _, h⟩ | ⟨n, h1, h2, h⟩ | h | ⟨_, _, h⟩
    · simp [hookAt, h]
    · exact Or.inr ⟨rfl, n, h1, h2, by simp [hookAt, h]⟩
    · simp [hookAt, h]
    · simp [hookAt, h]
  · rcases writebackHook_cases b e s with ⟨_, h⟩ | ⟨_, h⟩ <;> simp [hookAt, h]

end Sys2Proof.Machine
end

