-- ==== Sys2Proof/Laws/Pipeline.lean ====
section
/-!
SUPPORT. What the step loop does, said once: how an entry comes into a stage (`enter_cases`), what one
turn does (`runStage_cases`), and the induction over the turns of a step (`step_induct`) from which
the invariants follow (spec/70_reset_and_hazards.md R397).
-/

namespace Sys2Proof.Machine

/-! ## How an entry comes into a stage -/

/-- The entry of stage `p` moved into stage `st` (R397). -/
def State.moved (s : State) (st p : Stage) (e : Entry) : State :=
  (s.setSlot st (some { e with done := false })).setSlot p none

/-- The entry that `Fetch()` returns (R402). -/
def State.fetchedEntry (s : State) : Entry := Entry.fresh s.pc (s.ifetch s.pc) s.cycle

/-- What can stand in a stage when the loop reaches it. -/
inductive EnterCase (st : Stage) (s : State) : Prop
  /-- a bubble, or a done entry -/
  | pass (h : enter st s = .pass s) (hs : s.settled st)
      (hm : ∀ p e, st.before = some p → s.slot st = none → s.slot p = some e → e.done = false)
      (hf : st = .IF → s.slot .IF = none → s.fetchEnable = false)
  /-- the fetch faults: the pc is not a multiple of 4 -/
  | misaligned (hst : st = .IF) (h0 : s.slot .IF = none) (hf : s.fetchEnable = true)
      (ha : aligned s.pc 4 = false)
      (h : enter st s = .fetchFault (s.takeFault .alignmentFault s.pc s.pc 4 0#32))
  /-- the fetch faults: the pc is outside IMEM -/
  | outside (hst : st = .IF) (h0 : s.slot .IF = none) (hf : s.fetchEnable = true)
      (ha : aligned s.pc 4 = true) (hr : inRange s.pc 4 s.params.imemBytes = false)
      (h : enter st s = .fetchFault (s.takeFault .addressFault s.pc s.pc 0 0#32))
  /-- a fresh entry -/
  | fetched (hst : st = .IF) (h0 : s.slot .IF = none) (hf : s.fetchEnable = true)
      (ha : aligned s.pc 4 = true) (hr : inRange s.pc 4 s.params.imemBytes = true)
      (h : enter st s = .hook (s.setSlot .IF (some s.fetchedEntry)) s.fetchedEntry)
  /-- an entry that stalled here before -/
  | waiting (e : Entry) (he : s.slot st = some e) (hd : e.done = false) (h : enter st s = .hook s e)
  /-- an entry that completed the stage before -/
  | moved (p : Stage) (e : Entry) (hp : st.before = some p) (h0 : s.slot st = none)
      (he : s.slot p = some e) (hd : e.done = true)
      (h : enter st s = .hook (s.moved st p e) { e with done := false })

theorem enter_cases (st : Stage) (s : State) : EnterCase st s := by
  cases hs : s.slot st with
  | some e =>
    cases hd : e.done with
    | true =>
      refine .pass (by simp [enter, hs, hd]) ?_ (by simp [hs]) ?_
      · intro k hk; rw [hs] at hk; cases hk; exact hd
      · rintro rfl h; rw [hs] at h; cases h
    | false => exact .waiting e hs hd (by simp [enter, hs, hd])
  | none =>
    have hset : s.settled st := by intro k hk; rw [hs] at hk; cases hk
    cases hb : st.before with
    | none =>
      have hst : st = .IF := by cases st <;> first | rfl | cases hb
      subst hst
      cases hf : s.fetchEnable with
      | false => exact .pass (by simp [enter, hs, hb, hf]) hset (by simp [Stage.before]) (fun _ _ => hf)
      | true =>
        cases ha : aligned s.pc 4 with
        | false => exact .misaligned rfl hs hf ha (by simp [enter, hs, hb, hf, fetch, ha])
        | true =>
          cases hr : inRange s.pc 4 s.params.imemBytes with
          | false => exact .outside rfl hs hf ha hr (by simp [enter, hs, hb, hf, fetch, ha, hr])
          | true =>
            exact .fetched rfl hs hf ha hr
              (by simp [enter, hs, hb, hf, fetch, ha, hr, State.fetchedEntry])
    | some p =>
      have hne : st ≠ .IF := by rintro rfl; cases hb
      cases hp : s.slot p with
      | none =>
        refine .pass (by simp [enter, hs, hb, moveInto, hp]) hset ?_ (fun h => absurd h hne)
        rintro q e hq _ he
        rw [hb] at hq
        cases hq
        rw [hp] at he
        cases he
      | some e =>
        cases hd : e.done with
        | false =>
          refine .pass (by simp [enter, hs, hb, moveInto, hp, hd]) hset ?_ (fun h => absurd h hne)
          rintro q k hq _ hk
          rw [hb] at hq
          cases hq
          rw [hp] at hk
          cases hk
          exact hd
        | true => exact .moved p e hb hs hp hd (by simp [enter, hs, hb, moveInto, hp, hd, State.moved])

/-- Bringing an entry into a stage changes the slots only. -/
theorem entered_state {st : Stage} {s t : State} {e : Entry} (h : enter st s = .hook t e) :
    t = { s with slots := t.slots } := by
  rcases enter_cases st s with ⟨h', _, _, _⟩ | ⟨_, _, _, _, h'⟩ | ⟨_, _, _, _, _, h'⟩ |
      ⟨rfl, _, _, _, _, h'⟩ | ⟨k, hk, hd, h'⟩ | ⟨p, k, hp, _, _, _, h'⟩ <;> rw [h'] at h <;>
    cases h <;> rfl

/-- Where the entry whose hook runs comes from, and what the slots are then. -/
inductive EntryOrigin (st : Stage) (s t : State) (e : Entry) : Prop
  /-- fetched now -/
  | fetched (hst : st = .IF) (h0 : s.slot .IF = none) (hf : s.fetchEnable = true)
      (he : e = s.fetchedEntry) (hs : ∀ o, t.slot o = if o = st then some e else s.slot o)
  /-- stalled here before -/
  | waiting (h0 : s.slot st = some e) (hd : e.done = false) (hs : t = s)
  /-- moved from the stage before -/
  | moved (p : Stage) (k : Entry) (hp : st.before = some p) (h0 : s.slot st = none)
      (hk : s.slot p = some k) (hd : k.done = true) (he : e = { k with done := false })
      (hs : ∀ o, t.slot o = if o = st then some e else if o = p then none else s.slot o)

theorem entry_origin {st : Stage} {s t : State} {e : Entry} (h : enter st s = .hook t e) :
    EntryOrigin st s t e := by
  rcases enter_cases st s with ⟨h', _, _, _⟩ | ⟨_, _, _, _, h'⟩ | ⟨_, _, _, _, _, h'⟩ |
      ⟨rfl, h0, hf, _, _, h'⟩ | ⟨k, hk, hd, h'⟩ | ⟨p, k, hp, h0, hk, hd, h'⟩ <;> rw [h'] at h <;>
    cases h
  · refine .fetched rfl h0 hf rfl fun o => ?_
    rw [State.slot_setSlot]
    cases o <;> rfl
  · exact .waiting hk hd rfl
  · refine .moved p k hp h0 hk hd rfl fun o => ?_
    unfold State.moved
    rw [State.slot_setSlot, State.slot_setSlot]
    cases st <;> cases hp <;> cases o <;> rfl

/-! ## One turn of the loop -/

/-- In a stage the loop has reached, with the older stages settled, the entry whose hook runs is the
one that is due. -/
theorem due_of_enter {st : Stage} {s t : State} {e : Entry} (h : enter st s = .hook t e)
    (ho : ∀ o ∈ st.older, s.settled o) :
    t.slot st = some e ∧ e.done = false ∧ (∀ o ∈ st.older, t.slot o = s.slot o) ∧
      t.due = some (st, e) := by
  have key : t.slot st = some e ∧ e.done = false ∧ ∀ o ∈ st.older, t.slot o = s.slot o := by
    rcases enter_cases st s with ⟨h', _, _, _⟩ | ⟨_, _, _, _, h'⟩ | ⟨_, _, _, _, _, h'⟩ |
        ⟨rfl, _, _, _, _, h'⟩ | ⟨k, hk, hd, h'⟩ | ⟨p, k, hp, _, _, _, h'⟩ <;> rw [h'] at h <;>
      cases h
    · refine ⟨by simp, rfl, fun o ho => State.slot_setSlot_ne s _ ?_⟩
      rintro rfl; simp [Stage.older] at ho
    · exact ⟨hk, hd, fun _ _ => rfl⟩
    · refine ⟨?_, rfl, fun o ho => ?_⟩
      · cases st <;> cases hp <;> rfl
      · cases st <;> cases hp <;> cases o <;> first | rfl | simp [Stage.older] at ho
  refine ⟨key.1, key.2.1, key.2.2, State.due_of_undone key.1 key.2.1 fun o hoo k hk => ?_⟩
  rw [key.2.2 o hoo] at hk
  exact ho o hoo k hk

/-- What one turn of the loop answers, where it answers a next state. -/
inductive TurnCase (st : Stage) (s u : State) : Prop
  /-- a bubble or a done entry: nothing -/
  | pass (h : u = s) (hs : s.settled st)
      (hm : ∀ p e, st.before = some p → s.slot st = none → s.slot p = some e → e.done = false)
      (hf : st = .IF → s.slot .IF = none → s.fetchEnable = false)
  /-- the fetch faulted -/
  | fetchFault (k : FaultKind) (n : Nat) (hst : st = .IF) (h0 : s.slot .IF = none)
      (h : u = s.takeFault k s.pc s.pc n 0#32)
  /-- a reserved word in IF -/
  | reserved (t : State) (e : Entry) (hst : st = .IF) (ht : enter st s = .hook t e)
      (hw : decode e.word = .reserved) (h : u = t.faultOf e .reservedInstruction)
  /-- the hook of instruction `i` -/
  | hook (t : State) (e : Entry) (i : Instr) (b : Behaviour) (ht : enter st s = .hook t e)
      (hi : entryInstr st e = some i) (hb : RowOf i b) (he : t.slot st = some e)
      (hd : e.done = false) (ho : ∀ o ∈ st.older, t.slot o = s.slot o)
      (h : u = hookAt i b st e t)

theorem runStage_cases {st : Stage} {s u : State} (h : runStage st s = .next u)
    (ho : ∀ o ∈ st.older, s.settled o) : TurnCase st s u := by
  rcases hc : enter st s with t | t | ⟨t, e⟩
  · have hu : u = t := by
      unfold runStage at h
      rw [hc] at h
      cases h
      rfl
    rcases enter_cases st s with ⟨h', h1, h2, h3⟩ | ⟨_, _, _, _, h'⟩ | ⟨_, _, _, _, _, h'⟩ |
        ⟨_, _, _, _, _, h'⟩ | ⟨_, _, _, h'⟩ | ⟨_, _, _, _, _, _, h'⟩ <;> rw [hc] at h' <;> cases h'
    exact .pass hu h1 h2 h3
  · have hu : u = t := by
      unfold runStage at h
      rw [hc] at h
      cases h
      rfl
    rcases enter_cases st s with ⟨h', _, _, _⟩ | ⟨h1, h2, _, _, h'⟩ | ⟨h1, h2, _, _, _, h'⟩ |
        ⟨_, _, _, _, _, h'⟩ | ⟨_, _, _, h'⟩ | ⟨_, _, _, _, _, _, h'⟩ <;> rw [hc] at h' <;> cases h'
    · exact .fetchFault _ _ h1 h2 hu
    · exact .fetchFault _ _ h1 h2 hu
  · obtain ⟨he, hd, hold, hdue⟩ := due_of_enter hc ho
    unfold runStage at h
    rw [hc] at h
    simp only at h
    unfold runHook at h
    split at h
    · rename_i i hi
      obtain ⟨b, hb⟩ := exec_row i
      rw [hb.runs, runInstr_due hdue] at h
      exact .hook t e i b hc hi hb he hd hold (by cases h; rfl)
    · rename_i hn
      split at h
      · refine .reserved t e rfl hc ?_ (by cases h; rfl)
        unfold entryInstr at hn
        simp only at hn
        cases hw : decode e.word with
        | reserved => rfl
        | ins i => rw [hw] at hn; cases hn
      · cases h

/-- A hook leaves the slots of the other stages alone. -/
theorem hookAt_slot_other (i : Instr) (b : Behaviour) (st o : Stage) (e : Entry) (s : State)
    (h : o ≠ st) : (hookAt i b st e s).slot o = s.slot o := by
  have hne : ¬st = o := fun hh => h hh.symm
  have key : ∀ (t : State) (k : Entry), t.slots = s.slots →
      (t.completeAt st k).slot o = s.slot o := by
    intro t k ht
    rw [State.slot_completeAt, if_neg hne]
    exact State.slot_congr ht o
  cases st
  · rcases fetchHook_cases i b e s with ⟨_, hh⟩ | ⟨_, _, _, _, hh⟩ | ⟨_, _, _, hh⟩ <;>
      simp only [hookAt, hh]
    · exact State.slot_congr (by simp) o
    · exact (State.slot_congr rfl o).trans (key s _ rfl)
    · exact (State.slot_congr rfl o).trans (key s _ rfl)
  · rcases decodeHook_cases b e s with ⟨_, hh⟩ | ⟨_, _, _, hh⟩ | ⟨_, _, _, hh⟩ <;>
      simp only [hookAt, hh]
    · exact State.slot_congr (by simp) o
    · exact State.slot_congr (by simp) o
    · exact key _ _ (by simp)
  · rcases executeHook_cases b e s with ⟨_, _, _, hh⟩ | ⟨_, _, hh⟩ <;> simp only [hookAt, hh]
    · exact key _ _ rfl
    · exact State.slot_congr (by simp) o
  · rcases memoryHook_cases b e s with ⟨_, _, hh⟩ | ⟨_, _, _, hh⟩ | hh | ⟨_, _, hh⟩ <;>
      simp only [hookAt, hh]
    · exact key _ _ rfl
    · exact key _ _ (by simp)
    · exact State.slot_congr (by simp) o
    · exact State.slot_congr (by simp) o
  · rcases writebackHook_cases b e s with ⟨_, hh⟩ | ⟨_, hh⟩ <;> simp only [hookAt, hh]
    · refine (State.slot_congr rfl o).trans ((State.slot_setSlot_ne (s.commit e)
        (some { e with claimed := false }) hne).trans ?_)
      exact State.slot_congr (by simp) o
    · exact key _ _ (by simp)

/-- The slot a hook ran in: the entry as it was, where the hook stalled or faulted, or the entry with the
marks of its progress. Its address, word and time never change; its instruction only in IF, its
destination and claim only in ID and WB. -/
inductive SlotAfter (i : Instr) (b : Behaviour) (st : Stage) (e : Entry) (s u : State) : Prop
  /-- a stall, which neither EX nor WB has, or a fault, which WB does not have -/
  | same (h : u.slot st = some e)
      (hr : (u.runState = s.runState ∧ st ≠ .EX) ∨ u.runState = .faulted) (hst : st ≠ .WB)
  /-- `Normal`, `ControlTransfer` -/
  | done (k : Entry) (h : u.slot st = some k) (hd : k.done = true) (hr : u.runState = s.runState)
      (hia : k.ia = e.ia) (hw : k.word = e.word) (hc : k.entryCycle = e.entryCycle)
      (hi : k.ins = if st = .IF then some i else e.ins)
      (hh : st ≠ .WB ∨ b.halts = false)
  /-- `Halt` -/
  | halted (k : Entry) (h : u.slot st = some k) (hst : st = .WB) (hb : b.halts = true)
      (hd : k.done = e.done) (hr : u.runState = .halted)
      (hia : k.ia = e.ia) (hw : k.word = e.word) (hc : k.entryCycle = e.entryCycle)
      (hi : k.ins = e.ins)

theorem hookAt_slot {s : State} {st : Stage} {e : Entry} (i : Instr) (b : Behaviour)
    (h : s.slot st = some e) : SlotAfter i b st e s (hookAt i b st e s) := by
  have same : ∀ u : State, u.slots = s.slots → u.slot st = some e := fun u hu =>
    (State.slot_congr hu st).trans h
  cases st
  · rcases fetchHook_cases i b e s with ⟨_, hh⟩ | ⟨_, _, _, _, hh⟩ | ⟨_, _, _, hh⟩ <;>
      simp only [hookAt, hh]
    · exact .same (same _ (by simp)) (Or.inl (by simp)) (by simp)
    · exact .done { e with ins := some i, done := true } rfl rfl rfl rfl rfl rfl rfl
        (Or.inl (by simp))
    · exact .done { e with ins := some i, done := true } rfl rfl rfl rfl rfl rfl rfl
        (Or.inl (by simp))
  · rcases decodeHook_cases b e s with ⟨_, hh⟩ | ⟨_, _, _, hh⟩ | ⟨vs, _, _, hh⟩ <;>
      simp only [hookAt, hh]
    · exact .same (same _ (by simp)) (Or.inl (by simp)) (by simp)
    · exact .same (same _ (by simp)) (Or.inl (by simp)) (by simp)
    · exact .done { latch b vs s e with
          dst := effectiveDst b.dst, claimed := (effectiveDst b.dst).isSome, done := true }
        rfl rfl (by simp) rfl rfl rfl rfl (Or.inl (by simp))
  · rcases executeHook_cases b e s with ⟨r, v, a, hh⟩ | ⟨_, _, hh⟩ <;> simp only [hookAt, hh]
    · exact .done { e with res := r, resValid := v, ea := a, done := true } rfl rfl rfl rfl rfl rfl
        rfl (Or.inl (by simp))
    · exact .same (same _ (by simp)) (Or.inr rfl) (by simp)
  · rcases memoryHook_cases b e s with ⟨r, v, hh⟩ | ⟨_, _, _, hh⟩ | hh | ⟨_, _, hh⟩ <;>
      simp only [hookAt, hh]
    · exact .done { e with res := r, resValid := v, done := true } rfl rfl rfl rfl rfl rfl rfl
        (Or.inl (by simp))
    · exact .done { e with done := true } rfl rfl rfl rfl rfl rfl rfl (Or.inl (by simp))
    · exact .same (same _ (by simp)) (Or.inl (by simp)) (by simp)
    · exact .same (same _ (by simp)) (Or.inr rfl) (by simp)
  · rcases writebackHook_cases b e s with ⟨hb, hh⟩ | ⟨hb, hh⟩ <;> simp only [hookAt, hh]
    · exact .halted { e with claimed := false } rfl rfl hb rfl rfl rfl rfl rfl rfl
    · exact .done { e with claimed := false, done := true } rfl rfl (by simp) rfl rfl rfl rfl
        (Or.inr hb)

/-! ## The whole loop -/

/-- The loop reaches a stage running, with every older stage settled. -/
def Reached (st : Stage) (s : State) : Prop :=
  s.runState = .running ∧ ∀ o ∈ st.older, s.settled o

theorem loop_turn {st : Stage} {rest : List Stage} {s s' : State}
    (h : loopFrom (st :: rest) s = .next s') :
    ∃ u, runStage st s = .next u ∧
      ((goesOn st u = true ∧ loopFrom rest u = .next s') ∨ (goesOn st u = false ∧ s' = u)) := by
  unfold loopFrom at h
  split at h
  · rename_i u hu
    refine ⟨u, hu, ?_⟩
    cases hg : goesOn st u with
    | true => rw [hg] at h; exact Or.inl ⟨rfl, h⟩
    | false => rw [hg] at h; cases h; exact Or.inr ⟨rfl, rfl⟩
  · cases h
  · cases h

theorem goesOn_elim {st : Stage} {u : State} (h : goesOn st u = true) :
    u.runState = .running ∧ u.settled st := by
  unfold goesOn at h
  rw [Bool.and_eq_true] at h
  refine ⟨by simpa using h.1, fun e he => ?_⟩
  rw [he] at h
  exact h.2

/-- A turn that goes on leaves the older stages and its own settled. -/
theorem settled_after {st : Stage} {s u : State} (hr : Reached st s)
    (h : runStage st s = .next u) (hg : goesOn st u = true) :
    u.runState = .running ∧ u.settled st ∧ ∀ o ∈ st.older, u.settled o := by
  obtain ⟨h1, h2⟩ := goesOn_elim hg
  refine ⟨h1, h2, fun o ho e he => ?_⟩
  have hne : o ≠ st := by rintro rfl; cases o <;> simp [Stage.older] at ho
  rcases runStage_cases h hr.2 with ⟨rfl, _⟩ | ⟨_, _, rfl, _, rfl⟩ | ⟨t, k, rfl, ht, _, rfl⟩ |
      ⟨t, k, i, b, _, _, _, _, _, hold, rfl⟩
  · exact hr.2 o ho e he
  · simp at h1
  · simp at h1
  · rw [hookAt_slot_other i b st o k t hne, hold o ho] at he
    exact hr.2 o ho e he

/-- The induction over a step: a property `P` that the start of a cycle has and that every turn before
IF keeps, and a property `Q` that `P` implies and the turn of IF establishes, give `Q` after the
step. -/
theorem step_induct {P Q : State → Prop} {s s' : State} (h : step s = .next s')
    (hbegin : s.runState.accepts = true → P s.beginCycle)
    (hturn : ∀ st t u, st ≠ .IF → Reached st t → P t → runStage st t = .next u → P u)
    (hend : ∀ u, P u → Q u)
    (hfetch : ∀ t u, Reached .IF t → P t → runStage .IF t = .next u → Q u) : Q s' := by
  unfold step stepCall at h
  split at h
  swap
  · cases h
  rename_i hacc
  have hP := hbegin hacc
  unfold cycleOnce loopOrder at h
  have r0 : Reached .WB s.beginCycle := ⟨rfl, by simp [Stage.older]⟩
  obtain ⟨u1, e1, ⟨g1, h⟩ | ⟨_, rfl⟩⟩ := loop_turn h
  swap
  · exact hend _ (hturn _ _ _ (by simp) r0 hP e1)
  have p1 := hturn _ _ _ (by simp) r0 hP e1
  obtain ⟨a1, b1, c1⟩ := settled_after r0 e1 g1
  have r1 : Reached .MEM u1 := ⟨a1, by simp [Stage.older, b1]⟩
  obtain ⟨u2, e2, ⟨g2, h⟩ | ⟨_, rfl⟩⟩ := loop_turn h
  swap
  · exact hend _ (hturn _ _ _ (by simp) r1 p1 e2)
  have p2 := hturn _ _ _ (by simp) r1 p1 e2
  obtain ⟨a2, b2, c2⟩ := settled_after r1 e2 g2
  have r2 : Reached .EX u2 := ⟨a2, by simp [Stage.older] at c2 ⊢; exact ⟨b2, c2⟩⟩
  obtain ⟨u3, e3, ⟨g3, h⟩ | ⟨_, rfl⟩⟩ := loop_turn h
  swap
  · exact hend _ (hturn _ _ _ (by simp) r2 p2 e3)
  have p3 := hturn _ _ _ (by simp) r2 p2 e3
  obtain ⟨a3, b3, c3⟩ := settled_after r2 e3 g3
  have r3 : Reached .ID u3 := ⟨a3, by simp [Stage.older] at c3 ⊢; exact ⟨b3, c3⟩⟩
  obtain ⟨u4, e4, ⟨g4, h⟩ | ⟨_, rfl⟩⟩ := loop_turn h
  swap
  · exact hend _ (hturn _ _ _ (by simp) r3 p3 e4)
  have p4 := hturn _ _ _ (by simp) r3 p3 e4
  obtain ⟨a4, b4, c4⟩ := settled_after r3 e4 g4
  have r4 : Reached .IF u4 := ⟨a4, by simp [Stage.older] at c4 ⊢; exact ⟨b4, c4⟩⟩
  obtain ⟨u5, e5, ⟨_, h⟩ | ⟨_, rfl⟩⟩ := loop_turn h
  · cases h
    exact hfetch _ _ r4 p4 e5
  · exact hfetch _ _ r4 p4 e5

/-- The simple form: a property that the start of a cycle and every turn keep. -/
theorem step_keeps {P : State → Prop} {s s' : State} (h : step s = .next s')
    (hbegin : s.runState.accepts = true → P s.beginCycle)
    (hturn : ∀ st t u, Reached st t → P t → runStage st t = .next u → P u) : P s' :=
  step_induct h hbegin (fun st t u _ => hturn st t u) (fun _ hp => hp) (fun t u => hturn .IF t u)

end Sys2Proof.Machine
end

