-- ==== Sys2Proof/Laws/Alone.lean ====
section
/-!
SUPPORT. One instruction alone in the pipeline (Safety.lean): what its first two hooks leave
(`alone_decoded`), what its last one leaves (`alone_retired`), and from them what a row of
40_stage_hooks.md R131 completes as.
-/

namespace Sys2Proof.Machine

/-! ## Reading operands with no producer in flight -/

theorem State.readSrc_alone {s : State} {r : RegRef} (hEX : s.slot .EX = none)
    (hMEM : s.slot .MEM = none) (h : r ≠ .x 0 → s.sem r = 0) :
    s.readSrc r = .value (s.readReg r) := by
  unfold State.readSrc State.forwarder State.producerAt State.readChecked
  rw [hEX, hMEM]
  by_cases hr : r = .x 0
  · subst hr; simp [State.readReg]
  · simp [hr, h hr]

theorem State.readSources_alone {s : State} (hEX : s.slot .EX = none)
    (hMEM : s.slot .MEM = none) : ∀ rs : List RegRef, s.free rs →
    s.readSources rs = some (rs.map s.readReg)
  | [], _ => rfl
  | r :: rest, h => by
    rw [State.readSources, State.readSrc_alone hEX hMEM (h r (by simp)),
      State.readSources_alone hEX hMEM rest (fun q hq => h q (by simp [hq]))]
    rfl

/-! ## IF and ID -/

/-- A state with other slots, pc and fetch flag: what the first hooks change beside a claim. -/
def State.withFront (s : State) (p : Slots) (pc : Word) (fe : Bool) : State :=
  { s with slots := p, pc := pc, fetchEnable := fe }

/-- Only one stage occupied. -/
def Slots.only (st : Stage) (e : Entry) : Slots := Slots.empty.set st (some e)

/-- The pc after the fetchHook of a row at `s.pc`. -/
def Behaviour.pcAfter (b : Behaviour) (s : State) : Word :=
  match b.target s.pc (b.ifSources.map s.readReg) with
  | some p => p
  | none => s.pc + 4#64

/-- The fetch flag after the fetchHook of a row at `s.pc`. -/
def Behaviour.fetchAfter (b : Behaviour) (s : State) : Bool :=
  match b.target s.pc (b.ifSources.map s.readReg) with
  | some _ => s.fetchEnable
  | none => s.fetchEnable && !b.halts

/-- The entry of `i` in IF after its fetchHook. -/
def fetchedAlone (i : Instr) (s : State) : Entry :=
  { Entry.fresh s.pc (encode i) s.cycle with ins := some i, done := true }

/-- The entry of `i` in ID after its decodeHook, before `done` is set. -/
def decodedAlone (i : Instr) (b : Behaviour) (s : State) : Entry :=
  { latch b (b.idSources.map s.readReg) s (Entry.fresh s.pc (encode i) s.cycle) with
    ins := some i
    dst := effectiveDst b.dst
    claimed := (effectiveDst b.dst).isSome }

/-- The fetchHook of an instruction alone whose IF sources are free. -/
theorem alone_fetched {i : Instr} {b : Behaviour} (hr : RowOf i b) {s : State}
    (h : s.free b.ifSources) :
    exec i (s.issue i) =
      .next (s.withFront (Slots.only .IF (fetchedAlone i s)) (b.pcAfter s) (b.fetchAfter s)) := by
  have hd : (s.issue i).due = some (.IF, Entry.fresh s.pc (encode i) s.cycle) := rfl
  have hs : (s.issue i).readSources b.ifSources = some (b.ifSources.map s.readReg) :=
    State.readSources_alone rfl rfl _ h
  rw [hr.runs, runInstr_due hd, hookAt]
  have hia : (Entry.fresh s.pc (encode i) s.cycle).ia = s.pc := rfl
  simp only [fetchHook, hs, hia, Behaviour.pcAfter, Behaviour.fetchAfter]
  cases b.target s.pc (b.ifSources.map s.readReg) <;> rfl

/-- The decodeHook of an instruction alone whose ID sources and destination are free. -/
theorem alone_decoded {i : Instr} {b : Behaviour} (hr : RowOf i b) {s : State} {pc : Word} {fe : Bool}
    (hs : s.free b.idSources) (hd : ∀ d, effectiveDst b.dst = some d → s.sem d = 0) :
    exec i ((s.withFront (Slots.only .IF (fetchedAlone i s)) pc fe).advanceInto .ID) =
      .next ((s.claimDst (effectiveDst b.dst)).withFront
        (Slots.only .ID { decodedAlone i b s with done := true }) pc fe) := by
  have hadv : (s.withFront (Slots.only .IF (fetchedAlone i s)) pc fe).advanceInto .ID =
      s.withFront (Slots.only .ID { fetchedAlone i s with done := false }) pc fe := rfl
  have hdue : (s.withFront (Slots.only .ID { fetchedAlone i s with done := false }) pc fe).due =
      some (.ID, { fetchedAlone i s with done := false }) := rfl
  have hsrc : (s.withFront (Slots.only .ID { fetchedAlone i s with done := false }) pc fe).readSources
      b.idSources = some (b.idSources.map s.readReg) := State.readSources_alone rfl rfl _ hs
  rw [hadv, hr.runs, runInstr_due hdue, hookAt]
  simp only [decodeHook, hsrc, decodedAlone]
  cases he : effectiveDst b.dst with
  | none => rfl
  | some d =>
    have h0 := hd d he
    have hw : (s.withFront (Slots.only .ID { fetchedAlone i s with done := false }) pc fe).wawBusy
        (some d) = false := by
      simp only [State.wawBusy, decide_eq_false_iff_not, Nat.not_lt, Nat.le_zero_eq]
      cases d <;> exact h0
    rw [if_neg (by rw [hw]; exact Bool.false_ne_true)]
    cases d <;> rfl

/-! ## EX and MEM -/

/-- The state of an instruction alone past ID: its destination claimed, its entry in one stage. -/
def aloneIn (b : Behaviour) (s : State) (st : Stage) (e : Entry) (pc : Word) (fe : Bool) : State :=
  (s.claimDst (effectiveDst b.dst)).withFront (Slots.only st e) pc fe

theorem aloneIn_cfg (b : Behaviour) (s : State) (st : Stage) (e : Entry) (pc : Word) (fe : Bool) :
    (aloneIn b s st e pc fe).cfg = s.cfg := by
  cases he : effectiveDst b.dst with
  | none => simp only [aloneIn, he]; rfl
  | some d => simp only [aloneIn, he]; cases d <;> rfl

/-- The entry alone in the stage before is due in a stage once it has moved there. -/
theorem aloneIn_due (b : Behaviour) (s : State) {st p : Stage} (hp : st.before = some p) {e : Entry}
    (pc : Word) (fe : Bool) :
    (aloneIn b s p { e with done := true } pc fe).advanceInto st =
      aloneIn b s st { e with done := false } pc fe ∧
    (aloneIn b s st { e with done := false } pc fe).due = some (st, { e with done := false }) := by
  cases st <;> cases hp <;> exact ⟨rfl, rfl⟩

/-- The executeHook of an instruction alone that delivers a result. -/
theorem alone_result {i : Instr} {b : Behaviour} (hr : RowOf i b) {s : State} {e : Entry} {pc : Word}
    {fe : Bool} {r : ArithRes} {v : Word} (hx : b.execute { e with done := false } = .result r)
    (hg : r.gate s.cfg = .ok v) :
    exec i ((aloneIn b s .ID { e with done := true } pc fe).advanceInto .EX) =
      .next (aloneIn b s .EX { e with res := v, resValid := true, done := true } pc fe) := by
  obtain ⟨h1, h2⟩ := aloneIn_due b s (st := .EX) (p := .ID) rfl (e := e) pc fe
  rw [h1, hr.runs, runInstr_due h2, hookAt]
  simp only [executeHook, hx, aloneIn_cfg, hg]
  rfl

/-- The executeHook of an instruction alone that faults. -/
theorem alone_raises {i : Instr} {b : Behaviour} (hr : RowOf i b) {s : State} {e : Entry} {pc : Word}
    {fe : Bool} {r : ArithRes} {k : FaultKind} (hx : b.execute { e with done := false } = .result r)
    (hg : r.gate s.cfg = .error k) :
    exec i ((aloneIn b s .ID { e with done := true } pc fe).advanceInto .EX) =
      .next ((aloneIn b s .EX { e with done := false } pc fe).takeFault k e.ia 0#64 0 e.word) := by
  obtain ⟨h1, h2⟩ := aloneIn_due b s (st := .EX) (p := .ID) rfl (e := e) pc fe
  rw [h1, hr.runs, runInstr_due h2, hookAt]
  simp only [executeHook, hx, aloneIn_cfg, hg]
  rfl

/-- The executeHook of an instruction alone that computes an address. -/
theorem alone_address {i : Instr} {b : Behaviour} (hr : RowOf i b) {s : State} {e : Entry} {pc : Word}
    {fe : Bool} {a : Word} (hx : b.execute { e with done := false } = .address a) :
    exec i ((aloneIn b s .ID { e with done := true } pc fe).advanceInto .EX) =
      .next (aloneIn b s .EX { e with ea := a, done := true } pc fe) := by
  obtain ⟨h1, h2⟩ := aloneIn_due b s (st := .EX) (p := .ID) rfl (e := e) pc fe
  rw [h1, hr.runs, runInstr_due h2, hookAt]
  simp only [executeHook, hx]
  rfl

/-- The executeHook that is a no-op. -/
theorem alone_idle {i : Instr} {b : Behaviour} (hr : RowOf i b) {s : State} {e : Entry} {pc : Word}
    {fe : Bool} (hx : b.execute { e with done := false } = .nothing) :
    exec i ((aloneIn b s .ID { e with done := true } pc fe).advanceInto .EX) =
      .next (aloneIn b s .EX { e with done := true } pc fe) := by
  obtain ⟨h1, h2⟩ := aloneIn_due b s (st := .EX) (p := .ID) rfl (e := e) pc fe
  rw [h1, hr.runs, runInstr_due h2, hookAt]
  simp only [executeHook, hx]
  rfl

/-- The memoryHook of an instruction alone: its hook on the state with its entry in MEM. -/
theorem alone_memory {i : Instr} {b : Behaviour} (hr : RowOf i b) {s : State} {e : Entry} {pc : Word}
    {fe : Bool} :
    exec i ((aloneIn b s .EX { e with done := true } pc fe).advanceInto .MEM) =
      .next (memoryHook b { e with done := false }
        (aloneIn b s .MEM { e with done := false } pc fe)) := by
  obtain ⟨h1, h2⟩ := aloneIn_due b s (st := .MEM) (p := .EX) rfl (e := e) pc fe
  rw [h1, hr.runs, runInstr_due h2, hookAt]

/-- The memoryHook that is a no-op. -/
theorem memoryHook_idle {b : Behaviour} (hm : b.memory = .nothing) (s : State) (e : Entry) (pc : Word)
    (fe : Bool) : memoryHook b { e with done := false } (aloneIn b s .MEM { e with done := false } pc fe) =
      aloneIn b s .MEM { e with done := true } pc fe := by
  unfold memoryHook
  rw [hm]
  rfl

/-! ## WB -/

/-- A claim taken and released leaves the semaphores as they were. -/
theorem set_claim_release (v : Vector Nat 32) (r : RegIdx) :
    (v.set r.val (v.get r + 1) r.isLt).set r.val
      ((v.set r.val (v.get r + 1) r.isLt).get r - 1) r.isLt = v := by
  have h1 : (v.set r.val (v.get r + 1) r.isLt).get r = v.get r + 1 :=
    show (v.set r.val (v.get r + 1) r.isLt)[r.val] = _ by simp
  rw [h1, Vector.set_set]
  exact Vector.ext fun k hk => by
    by_cases h : r.val = k
    · subst h; simp [Vector.get]
    · simp [Vector.getElem_set_ne, h]

/-- The writebackHook of an instruction alone: the claim taken in ID is released and the result stands
in the register; a row that halts ends the run. -/
theorem alone_retired {i : Instr} {b : Behaviour} (hr : RowOf i b) {s : State} {m : Memory 8} {e : Entry}
    {pc : Word} {fe : Bool} (hdst : e.dst = effectiveDst b.dst)
    (hcl : e.claimed = (effectiveDst b.dst).isSome)
    (hd : ∀ d, effectiveDst b.dst = some d → s.sem d = 0) (hdone : e.done = false) :
    exec i ({ s.claimDst (effectiveDst b.dst) with dmem := m }.withFront (Slots.only .WB e) pc fe) =
      .next { (match effectiveDst b.dst with | none => s | some d => s.writeReg d e.res) with
        dmem := m
        slots := Slots.only .WB { e with claimed := false, done := !b.halts }
        pc := pc, fetchEnable := fe
        runState := if b.halts then .halted else s.runState } := by
  have hdue : ({ s.claimDst (effectiveDst b.dst) with dmem := m }.withFront (Slots.only .WB e) pc fe).due
      = some (.WB, e) := by
    refine State.due_of_undone rfl hdone ?_
    intro o ho; cases ho
  rw [hr.runs, runInstr_due hdue, hookAt]
  simp only [writebackHook]
  cases he : effectiveDst b.dst with
  | none =>
    rw [State.commit_unclaimed _ (by rw [hcl, he]; rfl)]
    cases b.halts
    · rfl
    · simp only [State.halt, State.setSlot, State.withFront]
      rw [hdone]; rfl
  | some d =>
    rw [State.commit_claimed _ (by rw [hcl, he]; rfl) (hdst.trans he)]
    have h0 := hd d he
    have hne : d ≠ .x 0 := by
      intro hx
      cases hb : b.dst with
      | none => rw [hb] at he; cases he
      | some q =>
        rw [hb] at he
        simp only [effectiveDst] at he
        split at he
        · cases he
        · rename_i hq; cases he; exact hq hx
    cases d with
    | x r =>
      have hr0 : r ≠ 0 := fun h => hne (by rw [h])
      have hv := set_claim_release s.semX r
      cases b.halts <;>
        simp [State.completeAt, State.halt, State.setSlot, State.release, State.setSem, State.sem,
          State.writeReg, State.writeX, hr0, State.withFront, State.claimDst, State.claim, Slots.only,
          Slots.set, Slots.empty, hdone, hv]
    | f r =>
      have hv := set_claim_release s.semF r
      cases b.halts <;>
        simp [State.completeAt, State.halt, State.setSlot, State.release, State.setSem, State.sem,
          State.writeReg, State.writeF, State.withFront, State.claimDst, State.claim, Slots.only,
          Slots.set, Slots.empty, hdone, hv]

/-! ## Whole runs -/

/-- The state a row alone ends in, slots apart: its register written, data memory `m`, the pc and fetch
flag of its fetchHook. -/
def Behaviour.outcome (b : Behaviour) (s : State) (v : Word) (m : Memory 8) : State :=
  { (match effectiveDst b.dst with | none => s | some d => s.writeReg d v) with
    dmem := m, pc := b.pcAfter s, fetchEnable := b.fetchAfter s }

/-- What must be free for a row to run alone without a stall. -/
structure Behaviour.Unhindered (b : Behaviour) (s : State) : Prop where
  fetch : s.free b.ifSources
  decode : s.free b.idSources
  dst : ∀ d, effectiveDst b.dst = some d → s.sem d = 0

/-- A row whose registers are all free runs unhindered; `x[0]` is always free. -/
theorem Behaviour.unhindered_of_free {b : Behaviour} {s : State}
    (h : s.free (b.ifSources ++ b.idSources ++ b.dst.toList)) : b.Unhindered s := by
  refine ⟨fun r hr => h r (by simp [hr]), fun r hr => h r (by simp [hr]), fun d hd => ?_⟩
  cases hb : b.dst with
  | none => rw [hb] at hd; cases hd
  | some q =>
    rw [hb] at hd
    simp only [effectiveDst] at hd
    split at hd
    · cases hd
    · cases hd; exact h _ (by simp [hb]) ‹_›

/-- A row that only advances the pc and writes a general register; `x[0]` takes no write. -/
theorem Behaviour.outcome_x {b : Behaviour} {s : State} {rd : RegIdx} (v : Word)
    (hd : b.dst = some (.x rd)) (hh : b.halts = false) (ht : ∀ ia vs, b.target ia vs = none) :
    b.outcome s v s.dmem = s.withX rd v := by
  have hp : b.pcAfter s = s.pc + 4#64 := by simp [Behaviour.pcAfter, ht]
  have hf : b.fetchAfter s = s.fetchEnable := by simp [Behaviour.fetchAfter, ht, hh]
  simp only [Behaviour.outcome, hp, hf, hd, effectiveDst, State.withX]
  by_cases h : rd = 0
  · subst h; simp [State.advanced]
  · have hx : RegRef.x rd ≠ .x 0 := fun k => h (by injection k)
    simp [hx, State.writeReg, State.writeX, h, State.advanced]

/-- A row that only advances the pc and writes a floating-point register. -/
theorem Behaviour.outcome_f {b : Behaviour} {s : State} {fd : RegIdx} (v : Word)
    (hd : b.dst = some (.f fd)) (hh : b.halts = false) (ht : ∀ ia vs, b.target ia vs = none) :
    b.outcome s v s.dmem = s.withF fd v := by
  have hp : b.pcAfter s = s.pc + 4#64 := by simp [Behaviour.pcAfter, ht]
  have hf : b.fetchAfter s = s.fetchEnable := by simp [Behaviour.fetchAfter, ht, hh]
  simp only [Behaviour.outcome, hp, hf, hd, effectiveDst, State.withF]
  rfl

/-- An instruction alone whose executeHook and memoryHook leave the entry `k` in MEM and the memory `m`
runs to its end. -/
theorem alone_runs {i : Instr} {b : Behaviour} (hr : RowOf i b) {s : State} (hu : b.Unhindered s)
    {k1 k : Entry} {m : Memory 8}
    (hx : exec i ((aloneIn b s .ID { decodedAlone i b s with done := true } (b.pcAfter s)
      (b.fetchAfter s)).advanceInto .EX) =
      .next (aloneIn b s .EX { k1 with done := true } (b.pcAfter s) (b.fetchAfter s)))
    (hm : memoryHook b { k1 with done := false }
      (aloneIn b s .MEM { k1 with done := false } (b.pcAfter s) (b.fetchAfter s)) =
      { aloneIn b s .MEM { k with done := true } (b.pcAfter s) (b.fetchAfter s) with dmem := m })
    (hdst : k.dst = effectiveDst b.dst) (hcl : k.claimed = (effectiveDst b.dst).isSome) :
    ∃ t, RunsAlone i s t ∧
      t.slots = { Slots.empty with WB := some { k with claimed := false, done := !b.halts } } ∧
      t.drained = { b.outcome s k.res m with
        runState := if b.halts then .halted else s.runState }.drained := by
  have h5 := alone_retired hr (s := s) (m := m) (e := { k with done := false }) (pc := b.pcAfter s)
    (fe := b.fetchAfter s) hdst hcl hu.dst rfl
  refine ⟨_, ⟨_, _, _, _, alone_fetched hr hu.fetch, alone_decoded hr hu.decode hu.dst, hx,
    (alone_memory hr).trans (congrArg _ hm), h5⟩, rfl, ?_⟩
  cases he : effectiveDst b.dst with
  | none => simp only [Behaviour.outcome, he]; rfl
  | some d => simp only [Behaviour.outcome, he]; cases d <;> rfl

/-- Data memory before any access is that of the state the instruction started from. -/
theorem aloneIn_dmem (b : Behaviour) (s : State) (st : Stage) (e : Entry) (pc : Word) (fe : Bool) :
    { aloneIn b s st e pc fe with dmem := s.dmem } = aloneIn b s st e pc fe := by
  cases he : effectiveDst b.dst with
  | none => simp only [aloneIn, he]; rfl
  | some d => simp only [aloneIn, he]; cases d <;> rfl

/-- A row whose executeHook delivers `v` and that does not access memory. -/
theorem completes_result {i : Instr} {b : Behaviour} (hr : RowOf i b) {s : State}
    (hu : b.Unhindered s) (hh : b.halts = false) (hm : b.memory = .nothing) {r : ArithRes} {v : Word}
    (hx : b.execute (decodedAlone i b s) = .result r) (hg : r.gate s.cfg = .ok v) :
    CompletesAs i s (b.outcome s v s.dmem) := by
  obtain ⟨t, h1, h2, h3⟩ := alone_runs hr hu (m := s.dmem)
    (k := { decodedAlone i b s with res := v, resValid := true })
    (alone_result hr (e := decodedAlone i b s) hx hg)
    ((memoryHook_idle hm s _ _ _).trans (aloneIn_dmem b s .MEM _ _ _).symm) rfl rfl
  refine ⟨t, _, h1, h2, by rw [hh]; rfl, h3.trans ?_⟩
  simp only [hh, Behaviour.outcome]
  cases effectiveDst b.dst with
  | none => rfl
  | some d => cases d <;> simp [State.drained, State.writeReg]

/-- A row with no executeHook and no access: nothing but the fetchHook matters. -/
theorem completes_idle {i : Instr} {b : Behaviour} (hr : RowOf i b) {s : State}
    (hu : b.Unhindered s) (hm : b.memory = .nothing) (hd : effectiveDst b.dst = none)
    (hx : b.execute (decodedAlone i b s) = .nothing) :
    ∃ t e, RunsAlone i s t ∧ t.slots = { Slots.empty with WB := some e } ∧ e.done = !b.halts ∧
      t.drained = { s with
        pc := b.pcAfter s, fetchEnable := b.fetchAfter s
        runState := if b.halts then .halted else s.runState }.drained := by
  obtain ⟨t, h1, h2, h3⟩ := alone_runs hr hu (m := s.dmem) (k := decodedAlone i b s)
    (alone_idle hr (e := decodedAlone i b s) hx)
    ((memoryHook_idle hm s _ _ _).trans (aloneIn_dmem b s .MEM _ _ _).symm) rfl rfl
  refine ⟨t, _, h1, h2, rfl, h3.trans ?_⟩
  simp only [Behaviour.outcome, hd]

/-- An instruction alone past ID whose entry no hook has marked done. -/
theorem aloneIn_held {i : Instr} {b : Behaviour} (hr : RowOf i b) (s : State) {st : Stage} {e : Entry}
    {t : State} (ht : t.slots = Slots.only st e) (hd : e.done = false) (hia : e.ia = s.pc)
    (hw : e.word = encode i) (hi : e.ins = some i) (hdst : e.dst = effectiveDst b.dst)
    (hc : e.claimed = (effectiveDst b.dst).isSome) : HeldIn i st s t :=
  ⟨e, ht, hd, hia, hw, hi, hdst.trans hr.claimed, hc.trans (by rw [hr.claimed])⟩

/-- The state of an instruction alone past ID that is no transfer and no HALT, slots apart: the pc advanced
and the destination claimed. -/
theorem aloneIn_drained {i : Instr} {b : Behaviour} (hr : RowOf i b) {s : State} (hu : b.Unhindered s)
    (hh : b.halts = false) (ht : ∀ ia vs, b.target ia vs = none) (st : Stage) (e : Entry) :
    (aloneIn b s st e (b.pcAfter s) (b.fetchAfter s)).drained = (s.advanced.withClaim i).drained := by
  have hp : b.pcAfter s = s.pc + 4#64 := by simp [Behaviour.pcAfter, ht]
  have hf : b.fetchAfter s = s.fetchEnable := by simp [Behaviour.fetchAfter, ht, hh]
  rw [hp, hf]
  simp only [aloneIn, State.withClaim, ← hr.claimed]
  cases hd : effectiveDst b.dst with
  | none => rfl
  | some d =>
    simp only [State.claimDst, State.claim, hu.dst d hd]
    cases d <;> rfl

/-- A load or store alone whose memoryHook leaves its entry as it was: a stall or a fault. -/
theorem stops_in_mem {i : Instr} {b : Behaviour} (hr : RowOf i b) {s : State} (hu : b.Unhindered s)
    {a : Word} (hx : b.execute (decodedAlone i b s) = .address a) {u : State}
    (hm : memoryHook b { decodedAlone i b s with ea := a }
      (aloneIn b s .MEM { decodedAlone i b s with ea := a } (b.pcAfter s) (b.fetchAfter s)) = u)
    (hs : u.slots = Slots.only .MEM { decodedAlone i b s with ea := a }) : StopsInMemAs i s u := by
  obtain ⟨h1, h2⟩ := aloneIn_due b s (st := .MEM) (p := .EX) rfl
    (e := { decodedAlone i b s with ea := a }) (b.pcAfter s) (b.fetchAfter s)
  refine ⟨_, _, _, u, alone_fetched hr hu.fetch, alone_decoded hr hu.decode hu.dst,
    alone_address hr (e := decodedAlone i b s) hx, ?_, ?_, aloneIn_held hr s hs rfl rfl rfl rfl rfl rfl,
    rfl⟩
  · rw [h1, hr.runs, runInstr_due h2]
    exact congrArg _ hm
  · rw [h1]; exact hs

/-- A row whose executeHook raises an unmasked fault. -/
theorem faults_in_ex {i : Instr} {b : Behaviour} (hr : RowOf i b) {s : State} (hu : b.Unhindered s)
    (hh : b.halts = false) (ht : ∀ ia vs, b.target ia vs = none) {r : ArithRes} {k : FaultKind}
    (hx : b.execute (decodedAlone i b s) = .result r) (hg : r.gate s.cfg = .error k) :
    FaultsInExAs i s { (s.advanced.claimDst (effectiveDst b.dst)).takeFault k s.pc 0#64 0 (encode i) with
      slots := Slots.empty } := by
  refine ⟨_, _, _, alone_fetched hr hu.fetch, alone_decoded hr hu.decode hu.dst,
    alone_raises hr (e := decodedAlone i b s) hx hg, rfl,
    aloneIn_held hr s rfl rfl rfl rfl rfl rfl rfl, rfl, ?_⟩
  have hp : b.pcAfter s = s.pc + 4#64 := by simp [Behaviour.pcAfter, ht]
  have hf : b.fetchAfter s = s.fetchEnable := by simp [Behaviour.fetchAfter, ht, hh]
  rw [hp, hf]
  simp only [aloneIn]
  cases effectiveDst b.dst with
  | none => rfl
  | some d => cases d <;> rfl

end Sys2Proof.Machine
end

