-- ==== Sys2Proof/Laws/PerInstr.lean ====
section
/-!
SUPPORT. Laws stated for every instruction, one lemma per constructor. EncodingFits: the word a
well-formed instruction packs to fits in 32 bits, so `encode` drops no bit of it
(spec/30_encoding.md R92, R95).
-/

namespace Sys2Proof.Laws

/-- The number the layout of `i` stands for is below 2^32, and `encode i` is that number. -/
def EncodingFits.Statement (i : Instr) : Prop :=
  WellFormed i → i.layout.toNat < 2 ^ 32 ∧ (encode i).toNat = i.layout.toNat

/-- Encoding loses nothing once the layout fits. -/
theorem encode_toNat {i : Instr} (h : i.layout.toNat < 2 ^ 32) : (encode i).toNat = i.layout.toNat := by
  rw [encode, BitVec.toNat_ofNat]
  exact Nat.mod_eq_of_lt h

/-- Six fields within their widths pack below 2^32. -/
theorem packR_lt {op rs rt rd sa funct : Nat} (h1 : op < 64) (h2 : rs < 32) (h3 : rt < 32) (h4 : rd < 32)
    (h5 : sa < 32) (h6 : funct < 64) : packR op rs rt rd sa funct < 2 ^ 32 := by
  unfold packR; omega

/-- Four fields within their widths pack below 2^32. -/
theorem packI_lt {op rs rt imm : Nat} (h1 : op < 64) (h2 : rs < 32) (h3 : rt < 32) (h4 : imm < 65536) :
    packI op rs rt imm < 2 ^ 32 := by
  unfold packI; omega

/-- A major opcode and an index within their widths pack below 2^32. -/
theorem packJ_lt {op index : Nat} (h1 : op < 64) (h2 : index < 67108864) :
    op * 2 ^ 26 + index < 2 ^ 32 := by omega

theorem EncodingFits.add (rd : RegIdx) (rs : RegIdx) (rt : RegIdx) :
    EncodingFits.Statement (.add rd rs rt) :=
  fun _ => have k := packR_lt (by decide) rs.isLt rt.isLt rd.isLt (by decide) (by decide)
  ⟨k, encode_toNat k⟩
theorem EncodingFits.addu (rd : RegIdx) (rs : RegIdx) (rt : RegIdx) :
    EncodingFits.Statement (.addu rd rs rt) :=
  fun _ => have k := packR_lt (by decide) rs.isLt rt.isLt rd.isLt (by decide) (by decide)
  ⟨k, encode_toNat k⟩
theorem EncodingFits.sub (rd : RegIdx) (rs : RegIdx) (rt : RegIdx) :
    EncodingFits.Statement (.sub rd rs rt) :=
  fun _ => have k := packR_lt (by decide) rs.isLt rt.isLt rd.isLt (by decide) (by decide)
  ⟨k, encode_toNat k⟩
theorem EncodingFits.subu (rd : RegIdx) (rs : RegIdx) (rt : RegIdx) :
    EncodingFits.Statement (.subu rd rs rt) :=
  fun _ => have k := packR_lt (by decide) rs.isLt rt.isLt rd.isLt (by decide) (by decide)
  ⟨k, encode_toNat k⟩
theorem EncodingFits.dadd (rd : RegIdx) (rs : RegIdx) (rt : RegIdx) :
    EncodingFits.Statement (.dadd rd rs rt) :=
  fun _ => have k := packR_lt (by decide) rs.isLt rt.isLt rd.isLt (by decide) (by decide)
  ⟨k, encode_toNat k⟩
theorem EncodingFits.daddu (rd : RegIdx) (rs : RegIdx) (rt : RegIdx) :
    EncodingFits.Statement (.daddu rd rs rt) :=
  fun _ => have k := packR_lt (by decide) rs.isLt rt.isLt rd.isLt (by decide) (by decide)
  ⟨k, encode_toNat k⟩
theorem EncodingFits.dsub (rd : RegIdx) (rs : RegIdx) (rt : RegIdx) :
    EncodingFits.Statement (.dsub rd rs rt) :=
  fun _ => have k := packR_lt (by decide) rs.isLt rt.isLt rd.isLt (by decide) (by decide)
  ⟨k, encode_toNat k⟩
theorem EncodingFits.dsubu (rd : RegIdx) (rs : RegIdx) (rt : RegIdx) :
    EncodingFits.Statement (.dsubu rd rs rt) :=
  fun _ => have k := packR_lt (by decide) rs.isLt rt.isLt rd.isLt (by decide) (by decide)
  ⟨k, encode_toNat k⟩
theorem EncodingFits.and (rd : RegIdx) (rs : RegIdx) (rt : RegIdx) :
    EncodingFits.Statement (.and rd rs rt) :=
  fun _ => have k := packR_lt (by decide) rs.isLt rt.isLt rd.isLt (by decide) (by decide)
  ⟨k, encode_toNat k⟩
theorem EncodingFits.or (rd : RegIdx) (rs : RegIdx) (rt : RegIdx) :
    EncodingFits.Statement (.or rd rs rt) :=
  fun _ => have k := packR_lt (by decide) rs.isLt rt.isLt rd.isLt (by decide) (by decide)
  ⟨k, encode_toNat k⟩
theorem EncodingFits.xor (rd : RegIdx) (rs : RegIdx) (rt : RegIdx) :
    EncodingFits.Statement (.xor rd rs rt) :=
  fun _ => have k := packR_lt (by decide) rs.isLt rt.isLt rd.isLt (by decide) (by decide)
  ⟨k, encode_toNat k⟩
theorem EncodingFits.nor (rd : RegIdx) (rs : RegIdx) (rt : RegIdx) :
    EncodingFits.Statement (.nor rd rs rt) :=
  fun _ => have k := packR_lt (by decide) rs.isLt rt.isLt rd.isLt (by decide) (by decide)
  ⟨k, encode_toNat k⟩
theorem EncodingFits.slt (rd : RegIdx) (rs : RegIdx) (rt : RegIdx) :
    EncodingFits.Statement (.slt rd rs rt) :=
  fun _ => have k := packR_lt (by decide) rs.isLt rt.isLt rd.isLt (by decide) (by decide)
  ⟨k, encode_toNat k⟩
theorem EncodingFits.sltu (rd : RegIdx) (rs : RegIdx) (rt : RegIdx) :
    EncodingFits.Statement (.sltu rd rs rt) :=
  fun _ => have k := packR_lt (by decide) rs.isLt rt.isLt rd.isLt (by decide) (by decide)
  ⟨k, encode_toNat k⟩
theorem EncodingFits.sll (rd : RegIdx) (rt : RegIdx) (sa : Nat) :
    EncodingFits.Statement (.sll rd rt sa) :=
  fun h => have k := packR_lt (by decide) (by decide) rt.isLt rd.isLt (of_decide_eq_true h) (by decide)
  ⟨k, encode_toNat k⟩
theorem EncodingFits.srl (rd : RegIdx) (rt : RegIdx) (sa : Nat) :
    EncodingFits.Statement (.srl rd rt sa) :=
  fun h => have k := packR_lt (by decide) (by decide) rt.isLt rd.isLt (of_decide_eq_true h) (by decide)
  ⟨k, encode_toNat k⟩
theorem EncodingFits.sra (rd : RegIdx) (rt : RegIdx) (sa : Nat) :
    EncodingFits.Statement (.sra rd rt sa) :=
  fun h => have k := packR_lt (by decide) (by decide) rt.isLt rd.isLt (of_decide_eq_true h) (by decide)
  ⟨k, encode_toNat k⟩
theorem EncodingFits.dsll (rd : RegIdx) (rt : RegIdx) (sa : Nat) :
    EncodingFits.Statement (.dsll rd rt sa) :=
  fun h => have k := packR_lt (by decide) (by decide) rt.isLt rd.isLt (of_decide_eq_true h) (by decide)
  ⟨k, encode_toNat k⟩
theorem EncodingFits.dsrl (rd : RegIdx) (rt : RegIdx) (sa : Nat) :
    EncodingFits.Statement (.dsrl rd rt sa) :=
  fun h => have k := packR_lt (by decide) (by decide) rt.isLt rd.isLt (of_decide_eq_true h) (by decide)
  ⟨k, encode_toNat k⟩
theorem EncodingFits.dsra (rd : RegIdx) (rt : RegIdx) (sa : Nat) :
    EncodingFits.Statement (.dsra rd rt sa) :=
  fun h => have k := packR_lt (by decide) (by decide) rt.isLt rd.isLt (of_decide_eq_true h) (by decide)
  ⟨k, encode_toNat k⟩
theorem EncodingFits.dsll32 (rd : RegIdx) (rt : RegIdx) (sa : Nat) :
    EncodingFits.Statement (.dsll32 rd rt sa) :=
  fun h => have k := packR_lt (by decide) (by decide) rt.isLt rd.isLt (of_decide_eq_true h) (by decide)
  ⟨k, encode_toNat k⟩
theorem EncodingFits.dsrl32 (rd : RegIdx) (rt : RegIdx) (sa : Nat) :
    EncodingFits.Statement (.dsrl32 rd rt sa) :=
  fun h => have k := packR_lt (by decide) (by decide) rt.isLt rd.isLt (of_decide_eq_true h) (by decide)
  ⟨k, encode_toNat k⟩
theorem EncodingFits.dsra32 (rd : RegIdx) (rt : RegIdx) (sa : Nat) :
    EncodingFits.Statement (.dsra32 rd rt sa) :=
  fun h => have k := packR_lt (by decide) (by decide) rt.isLt rd.isLt (of_decide_eq_true h) (by decide)
  ⟨k, encode_toNat k⟩
theorem EncodingFits.sllv (rd : RegIdx) (rt : RegIdx) (rs : RegIdx) :
    EncodingFits.Statement (.sllv rd rt rs) :=
  fun _ => have k := packR_lt (by decide) rs.isLt rt.isLt rd.isLt (by decide) (by decide)
  ⟨k, encode_toNat k⟩
theorem EncodingFits.srlv (rd : RegIdx) (rt : RegIdx) (rs : RegIdx) :
    EncodingFits.Statement (.srlv rd rt rs) :=
  fun _ => have k := packR_lt (by decide) rs.isLt rt.isLt rd.isLt (by decide) (by decide)
  ⟨k, encode_toNat k⟩
theorem EncodingFits.srav (rd : RegIdx) (rt : RegIdx) (rs : RegIdx) :
    EncodingFits.Statement (.srav rd rt rs) :=
  fun _ => have k := packR_lt (by decide) rs.isLt rt.isLt rd.isLt (by decide) (by decide)
  ⟨k, encode_toNat k⟩
theorem EncodingFits.dsllv (rd : RegIdx) (rt : RegIdx) (rs : RegIdx) :
    EncodingFits.Statement (.dsllv rd rt rs) :=
  fun _ => have k := packR_lt (by decide) rs.isLt rt.isLt rd.isLt (by decide) (by decide)
  ⟨k, encode_toNat k⟩
theorem EncodingFits.dsrlv (rd : RegIdx) (rt : RegIdx) (rs : RegIdx) :
    EncodingFits.Statement (.dsrlv rd rt rs) :=
  fun _ => have k := packR_lt (by decide) rs.isLt rt.isLt rd.isLt (by decide) (by decide)
  ⟨k, encode_toNat k⟩
theorem EncodingFits.dsrav (rd : RegIdx) (rt : RegIdx) (rs : RegIdx) :
    EncodingFits.Statement (.dsrav rd rt rs) :=
  fun _ => have k := packR_lt (by decide) rs.isLt rt.isLt rd.isLt (by decide) (by decide)
  ⟨k, encode_toNat k⟩
theorem EncodingFits.movz (rd : RegIdx) (rs : RegIdx) (rt : RegIdx) :
    EncodingFits.Statement (.movz rd rs rt) :=
  fun _ => have k := packR_lt (by decide) rs.isLt rt.isLt rd.isLt (by decide) (by decide)
  ⟨k, encode_toNat k⟩
theorem EncodingFits.movn (rd : RegIdx) (rs : RegIdx) (rt : RegIdx) :
    EncodingFits.Statement (.movn rd rs rt) :=
  fun _ => have k := packR_lt (by decide) rs.isLt rt.isLt rd.isLt (by decide) (by decide)
  ⟨k, encode_toNat k⟩
theorem EncodingFits.addi (rt : RegIdx) (rs : RegIdx) (imm : Nat) :
    EncodingFits.Statement (.addi rt rs imm) :=
  fun h => have k := packI_lt (by decide) rs.isLt rt.isLt (of_decide_eq_true h)
  ⟨k, encode_toNat k⟩
theorem EncodingFits.addiu (rt : RegIdx) (rs : RegIdx) (imm : Nat) :
    EncodingFits.Statement (.addiu rt rs imm) :=
  fun h => have k := packI_lt (by decide) rs.isLt rt.isLt (of_decide_eq_true h)
  ⟨k, encode_toNat k⟩
theorem EncodingFits.daddi (rt : RegIdx) (rs : RegIdx) (imm : Nat) :
    EncodingFits.Statement (.daddi rt rs imm) :=
  fun h => have k := packI_lt (by decide) rs.isLt rt.isLt (of_decide_eq_true h)
  ⟨k, encode_toNat k⟩
theorem EncodingFits.daddiu (rt : RegIdx) (rs : RegIdx) (imm : Nat) :
    EncodingFits.Statement (.daddiu rt rs imm) :=
  fun h => have k := packI_lt (by decide) rs.isLt rt.isLt (of_decide_eq_true h)
  ⟨k, encode_toNat k⟩
theorem EncodingFits.slti (rt : RegIdx) (rs : RegIdx) (imm : Nat) :
    EncodingFits.Statement (.slti rt rs imm) :=
  fun h => have k := packI_lt (by decide) rs.isLt rt.isLt (of_decide_eq_true h)
  ⟨k, encode_toNat k⟩
theorem EncodingFits.sltiu (rt : RegIdx) (rs : RegIdx) (imm : Nat) :
    EncodingFits.Statement (.sltiu rt rs imm) :=
  fun h => have k := packI_lt (by decide) rs.isLt rt.isLt (of_decide_eq_true h)
  ⟨k, encode_toNat k⟩
theorem EncodingFits.andi (rt : RegIdx) (rs : RegIdx) (imm : Nat) :
    EncodingFits.Statement (.andi rt rs imm) :=
  fun h => have k := packI_lt (by decide) rs.isLt rt.isLt (of_decide_eq_true h)
  ⟨k, encode_toNat k⟩
theorem EncodingFits.ori (rt : RegIdx) (rs : RegIdx) (imm : Nat) :
    EncodingFits.Statement (.ori rt rs imm) :=
  fun h => have k := packI_lt (by decide) rs.isLt rt.isLt (of_decide_eq_true h)
  ⟨k, encode_toNat k⟩
theorem EncodingFits.xori (rt : RegIdx) (rs : RegIdx) (imm : Nat) :
    EncodingFits.Statement (.xori rt rs imm) :=
  fun h => have k := packI_lt (by decide) rs.isLt rt.isLt (of_decide_eq_true h)
  ⟨k, encode_toNat k⟩
theorem EncodingFits.lui (rt : RegIdx) (imm : Nat) :
    EncodingFits.Statement (.lui rt imm) :=
  fun h => have k := packI_lt (by decide) (by decide) rt.isLt (of_decide_eq_true h)
  ⟨k, encode_toNat k⟩
theorem EncodingFits.mul (rd : RegIdx) (rs : RegIdx) (rt : RegIdx) :
    EncodingFits.Statement (.mul rd rs rt) :=
  fun _ => have k := packR_lt (by decide) rs.isLt rt.isLt rd.isLt (by decide) (by decide)
  ⟨k, encode_toNat k⟩
theorem EncodingFits.muh (rd : RegIdx) (rs : RegIdx) (rt : RegIdx) :
    EncodingFits.Statement (.muh rd rs rt) :=
  fun _ => have k := packR_lt (by decide) rs.isLt rt.isLt rd.isLt (by decide) (by decide)
  ⟨k, encode_toNat k⟩
theorem EncodingFits.mulu (rd : RegIdx) (rs : RegIdx) (rt : RegIdx) :
    EncodingFits.Statement (.mulu rd rs rt) :=
  fun _ => have k := packR_lt (by decide) rs.isLt rt.isLt rd.isLt (by decide) (by decide)
  ⟨k, encode_toNat k⟩
theorem EncodingFits.muhu (rd : RegIdx) (rs : RegIdx) (rt : RegIdx) :
    EncodingFits.Statement (.muhu rd rs rt) :=
  fun _ => have k := packR_lt (by decide) rs.isLt rt.isLt rd.isLt (by decide) (by decide)
  ⟨k, encode_toNat k⟩
theorem EncodingFits.div (rd : RegIdx) (rs : RegIdx) (rt : RegIdx) :
    EncodingFits.Statement (.div rd rs rt) :=
  fun _ => have k := packR_lt (by decide) rs.isLt rt.isLt rd.isLt (by decide) (by decide)
  ⟨k, encode_toNat k⟩
theorem EncodingFits.mod (rd : RegIdx) (rs : RegIdx) (rt : RegIdx) :
    EncodingFits.Statement (.mod rd rs rt) :=
  fun _ => have k := packR_lt (by decide) rs.isLt rt.isLt rd.isLt (by decide) (by decide)
  ⟨k, encode_toNat k⟩
theorem EncodingFits.divu (rd : RegIdx) (rs : RegIdx) (rt : RegIdx) :
    EncodingFits.Statement (.divu rd rs rt) :=
  fun _ => have k := packR_lt (by decide) rs.isLt rt.isLt rd.isLt (by decide) (by decide)
  ⟨k, encode_toNat k⟩
theorem EncodingFits.modu (rd : RegIdx) (rs : RegIdx) (rt : RegIdx) :
    EncodingFits.Statement (.modu rd rs rt) :=
  fun _ => have k := packR_lt (by decide) rs.isLt rt.isLt rd.isLt (by decide) (by decide)
  ⟨k, encode_toNat k⟩
theorem EncodingFits.dmul (rd : RegIdx) (rs : RegIdx) (rt : RegIdx) :
    EncodingFits.Statement (.dmul rd rs rt) :=
  fun _ => have k := packR_lt (by decide) rs.isLt rt.isLt rd.isLt (by decide) (by decide)
  ⟨k, encode_toNat k⟩
theorem EncodingFits.dmuh (rd : RegIdx) (rs : RegIdx) (rt : RegIdx) :
    EncodingFits.Statement (.dmuh rd rs rt) :=
  fun _ => have k := packR_lt (by decide) rs.isLt rt.isLt rd.isLt (by decide) (by decide)
  ⟨k, encode_toNat k⟩
theorem EncodingFits.dmulu (rd : RegIdx) (rs : RegIdx) (rt : RegIdx) :
    EncodingFits.Statement (.dmulu rd rs rt) :=
  fun _ => have k := packR_lt (by decide) rs.isLt rt.isLt rd.isLt (by decide) (by decide)
  ⟨k, encode_toNat k⟩
theorem EncodingFits.dmuhu (rd : RegIdx) (rs : RegIdx) (rt : RegIdx) :
    EncodingFits.Statement (.dmuhu rd rs rt) :=
  fun _ => have k := packR_lt (by decide) rs.isLt rt.isLt rd.isLt (by decide) (by decide)
  ⟨k, encode_toNat k⟩
theorem EncodingFits.ddiv (rd : RegIdx) (rs : RegIdx) (rt : RegIdx) :
    EncodingFits.Statement (.ddiv rd rs rt) :=
  fun _ => have k := packR_lt (by decide) rs.isLt rt.isLt rd.isLt (by decide) (by decide)
  ⟨k, encode_toNat k⟩
theorem EncodingFits.dmod (rd : RegIdx) (rs : RegIdx) (rt : RegIdx) :
    EncodingFits.Statement (.dmod rd rs rt) :=
  fun _ => have k := packR_lt (by decide) rs.isLt rt.isLt rd.isLt (by decide) (by decide)
  ⟨k, encode_toNat k⟩
theorem EncodingFits.ddivu (rd : RegIdx) (rs : RegIdx) (rt : RegIdx) :
    EncodingFits.Statement (.ddivu rd rs rt) :=
  fun _ => have k := packR_lt (by decide) rs.isLt rt.isLt rd.isLt (by decide) (by decide)
  ⟨k, encode_toNat k⟩
theorem EncodingFits.dmodu (rd : RegIdx) (rs : RegIdx) (rt : RegIdx) :
    EncodingFits.Statement (.dmodu rd rs rt) :=
  fun _ => have k := packR_lt (by decide) rs.isLt rt.isLt rd.isLt (by decide) (by decide)
  ⟨k, encode_toNat k⟩
theorem EncodingFits.lb (rt : RegIdx) (imm : Nat) (rs : RegIdx) :
    EncodingFits.Statement (.lb rt imm rs) :=
  fun h => have k := packI_lt (by decide) rs.isLt rt.isLt (of_decide_eq_true h)
  ⟨k, encode_toNat k⟩
theorem EncodingFits.lbu (rt : RegIdx) (imm : Nat) (rs : RegIdx) :
    EncodingFits.Statement (.lbu rt imm rs) :=
  fun h => have k := packI_lt (by decide) rs.isLt rt.isLt (of_decide_eq_true h)
  ⟨k, encode_toNat k⟩
theorem EncodingFits.lh (rt : RegIdx) (imm : Nat) (rs : RegIdx) :
    EncodingFits.Statement (.lh rt imm rs) :=
  fun h => have k := packI_lt (by decide) rs.isLt rt.isLt (of_decide_eq_true h)
  ⟨k, encode_toNat k⟩
theorem EncodingFits.lhu (rt : RegIdx) (imm : Nat) (rs : RegIdx) :
    EncodingFits.Statement (.lhu rt imm rs) :=
  fun h => have k := packI_lt (by decide) rs.isLt rt.isLt (of_decide_eq_true h)
  ⟨k, encode_toNat k⟩
theorem EncodingFits.lw (rt : RegIdx) (imm : Nat) (rs : RegIdx) :
    EncodingFits.Statement (.lw rt imm rs) :=
  fun h => have k := packI_lt (by decide) rs.isLt rt.isLt (of_decide_eq_true h)
  ⟨k, encode_toNat k⟩
theorem EncodingFits.lwu (rt : RegIdx) (imm : Nat) (rs : RegIdx) :
    EncodingFits.Statement (.lwu rt imm rs) :=
  fun h => have k := packI_lt (by decide) rs.isLt rt.isLt (of_decide_eq_true h)
  ⟨k, encode_toNat k⟩
theorem EncodingFits.ld (rt : RegIdx) (imm : Nat) (rs : RegIdx) :
    EncodingFits.Statement (.ld rt imm rs) :=
  fun h => have k := packI_lt (by decide) rs.isLt rt.isLt (of_decide_eq_true h)
  ⟨k, encode_toNat k⟩
theorem EncodingFits.sb (rt : RegIdx) (imm : Nat) (rs : RegIdx) :
    EncodingFits.Statement (.sb rt imm rs) :=
  fun h => have k := packI_lt (by decide) rs.isLt rt.isLt (of_decide_eq_true h)
  ⟨k, encode_toNat k⟩
theorem EncodingFits.sh (rt : RegIdx) (imm : Nat) (rs : RegIdx) :
    EncodingFits.Statement (.sh rt imm rs) :=
  fun h => have k := packI_lt (by decide) rs.isLt rt.isLt (of_decide_eq_true h)
  ⟨k, encode_toNat k⟩
theorem EncodingFits.sw (rt : RegIdx) (imm : Nat) (rs : RegIdx) :
    EncodingFits.Statement (.sw rt imm rs) :=
  fun h => have k := packI_lt (by decide) rs.isLt rt.isLt (of_decide_eq_true h)
  ⟨k, encode_toNat k⟩
theorem EncodingFits.sd (rt : RegIdx) (imm : Nat) (rs : RegIdx) :
    EncodingFits.Statement (.sd rt imm rs) :=
  fun h => have k := packI_lt (by decide) rs.isLt rt.isLt (of_decide_eq_true h)
  ⟨k, encode_toNat k⟩
theorem EncodingFits.beq (rs : RegIdx) (rt : RegIdx) (imm : Nat) :
    EncodingFits.Statement (.beq rs rt imm) :=
  fun h => have k := packI_lt (by decide) rs.isLt rt.isLt (of_decide_eq_true h)
  ⟨k, encode_toNat k⟩
theorem EncodingFits.bne (rs : RegIdx) (rt : RegIdx) (imm : Nat) :
    EncodingFits.Statement (.bne rs rt imm) :=
  fun h => have k := packI_lt (by decide) rs.isLt rt.isLt (of_decide_eq_true h)
  ⟨k, encode_toNat k⟩
theorem EncodingFits.blez (rs : RegIdx) (imm : Nat) :
    EncodingFits.Statement (.blez rs imm) :=
  fun h => have k := packI_lt (by decide) rs.isLt (by decide) (of_decide_eq_true h)
  ⟨k, encode_toNat k⟩
theorem EncodingFits.bgtz (rs : RegIdx) (imm : Nat) :
    EncodingFits.Statement (.bgtz rs imm) :=
  fun h => have k := packI_lt (by decide) rs.isLt (by decide) (of_decide_eq_true h)
  ⟨k, encode_toNat k⟩
theorem EncodingFits.bgez (rs : RegIdx) (imm : Nat) :
    EncodingFits.Statement (.bgez rs imm) :=
  fun h => have k := packI_lt (by decide) rs.isLt (by decide) (of_decide_eq_true h)
  ⟨k, encode_toNat k⟩
theorem EncodingFits.j (index : Nat) :
    EncodingFits.Statement (.j index) :=
  fun h => have k := packJ_lt (by decide) (of_decide_eq_true h)
  ⟨k, encode_toNat k⟩
theorem EncodingFits.jal (index : Nat) :
    EncodingFits.Statement (.jal index) :=
  fun h => have k := packJ_lt (by decide) (of_decide_eq_true h)
  ⟨k, encode_toNat k⟩
theorem EncodingFits.jr (rs : RegIdx) :
    EncodingFits.Statement (.jr rs) :=
  fun _ => have k := packR_lt (by decide) rs.isLt (by decide) (by decide) (by decide) (by decide)
  ⟨k, encode_toNat k⟩
theorem EncodingFits.jalr (rd : RegIdx) (rs : RegIdx) :
    EncodingFits.Statement (.jalr rd rs) :=
  fun _ => have k := packR_lt (by decide) rs.isLt (by decide) rd.isLt (by decide) (by decide)
  ⟨k, encode_toNat k⟩
theorem EncodingFits.halt :
    EncodingFits.Statement (.halt) :=
  fun _ => have k := by decide
  ⟨k, encode_toNat k⟩
theorem EncodingFits.addD (fd : RegIdx) (fs : RegIdx) (ft : RegIdx) :
    EncodingFits.Statement (.addD fd fs ft) :=
  fun _ => have k := packR_lt (by decide) (by decide) ft.isLt fs.isLt fd.isLt (by decide)
  ⟨k, encode_toNat k⟩
theorem EncodingFits.subD (fd : RegIdx) (fs : RegIdx) (ft : RegIdx) :
    EncodingFits.Statement (.subD fd fs ft) :=
  fun _ => have k := packR_lt (by decide) (by decide) ft.isLt fs.isLt fd.isLt (by decide)
  ⟨k, encode_toNat k⟩
theorem EncodingFits.mulD (fd : RegIdx) (fs : RegIdx) (ft : RegIdx) :
    EncodingFits.Statement (.mulD fd fs ft) :=
  fun _ => have k := packR_lt (by decide) (by decide) ft.isLt fs.isLt fd.isLt (by decide)
  ⟨k, encode_toNat k⟩
theorem EncodingFits.divD (fd : RegIdx) (fs : RegIdx) (ft : RegIdx) :
    EncodingFits.Statement (.divD fd fs ft) :=
  fun _ => have k := packR_lt (by decide) (by decide) ft.isLt fs.isLt fd.isLt (by decide)
  ⟨k, encode_toNat k⟩
theorem EncodingFits.absD (fd : RegIdx) (fs : RegIdx) :
    EncodingFits.Statement (.absD fd fs) :=
  fun _ => have k := packR_lt (by decide) (by decide) (by decide) fs.isLt fd.isLt (by decide)
  ⟨k, encode_toNat k⟩
theorem EncodingFits.movD (fd : RegIdx) (fs : RegIdx) :
    EncodingFits.Statement (.movD fd fs) :=
  fun _ => have k := packR_lt (by decide) (by decide) (by decide) fs.isLt fd.isLt (by decide)
  ⟨k, encode_toNat k⟩
theorem EncodingFits.negD (fd : RegIdx) (fs : RegIdx) :
    EncodingFits.Statement (.negD fd fs) :=
  fun _ => have k := packR_lt (by decide) (by decide) (by decide) fs.isLt fd.isLt (by decide)
  ⟨k, encode_toNat k⟩
theorem EncodingFits.cvtLD (fd : RegIdx) (fs : RegIdx) :
    EncodingFits.Statement (.cvtLD fd fs) :=
  fun _ => have k := packR_lt (by decide) (by decide) (by decide) fs.isLt fd.isLt (by decide)
  ⟨k, encode_toNat k⟩
theorem EncodingFits.cvtDL (fd : RegIdx) (fs : RegIdx) :
    EncodingFits.Statement (.cvtDL fd fs) :=
  fun _ => have k := packR_lt (by decide) (by decide) (by decide) fs.isLt fd.isLt (by decide)
  ⟨k, encode_toNat k⟩
theorem EncodingFits.cmpUnD (fd : RegIdx) (fs : RegIdx) (ft : RegIdx) :
    EncodingFits.Statement (.cmpUnD fd fs ft) :=
  fun _ => have k := packR_lt (by decide) (by decide) ft.isLt fs.isLt fd.isLt (by decide)
  ⟨k, encode_toNat k⟩
theorem EncodingFits.cmpEqD (fd : RegIdx) (fs : RegIdx) (ft : RegIdx) :
    EncodingFits.Statement (.cmpEqD fd fs ft) :=
  fun _ => have k := packR_lt (by decide) (by decide) ft.isLt fs.isLt fd.isLt (by decide)
  ⟨k, encode_toNat k⟩
theorem EncodingFits.cmpLtD (fd : RegIdx) (fs : RegIdx) (ft : RegIdx) :
    EncodingFits.Statement (.cmpLtD fd fs ft) :=
  fun _ => have k := packR_lt (by decide) (by decide) ft.isLt fs.isLt fd.isLt (by decide)
  ⟨k, encode_toNat k⟩
theorem EncodingFits.cmpLeD (fd : RegIdx) (fs : RegIdx) (ft : RegIdx) :
    EncodingFits.Statement (.cmpLeD fd fs ft) :=
  fun _ => have k := packR_lt (by decide) (by decide) ft.isLt fs.isLt fd.isLt (by decide)
  ⟨k, encode_toNat k⟩
theorem EncodingFits.dmfc1 (rt : RegIdx) (fs : RegIdx) :
    EncodingFits.Statement (.dmfc1 rt fs) :=
  fun _ => have k := packR_lt (by decide) (by decide) rt.isLt fs.isLt (by decide) (by decide)
  ⟨k, encode_toNat k⟩
theorem EncodingFits.dmtc1 (rt : RegIdx) (fs : RegIdx) :
    EncodingFits.Statement (.dmtc1 rt fs) :=
  fun _ => have k := packR_lt (by decide) (by decide) rt.isLt fs.isLt (by decide) (by decide)
  ⟨k, encode_toNat k⟩
theorem EncodingFits.bc1eqz (ft : RegIdx) (imm : Nat) :
    EncodingFits.Statement (.bc1eqz ft imm) :=
  fun h => have k := packI_lt (by decide) (by decide) ft.isLt (of_decide_eq_true h)
  ⟨k, encode_toNat k⟩
theorem EncodingFits.bc1nez (ft : RegIdx) (imm : Nat) :
    EncodingFits.Statement (.bc1nez ft imm) :=
  fun h => have k := packI_lt (by decide) (by decide) ft.isLt (of_decide_eq_true h)
  ⟨k, encode_toNat k⟩
theorem EncodingFits.ldc1 (ft : RegIdx) (imm : Nat) (rs : RegIdx) :
    EncodingFits.Statement (.ldc1 ft imm rs) :=
  fun h => have k := packI_lt (by decide) rs.isLt ft.isLt (of_decide_eq_true h)
  ⟨k, encode_toNat k⟩
theorem EncodingFits.sdc1 (ft : RegIdx) (imm : Nat) (rs : RegIdx) :
    EncodingFits.Statement (.sdc1 ft imm rs) :=
  fun h => have k := packI_lt (by decide) rs.isLt ft.isLt (of_decide_eq_true h)
  ⟨k, encode_toNat k⟩

end Sys2Proof.Laws
end

