-- ==== Sys2Proof/Tests/Slice0.lean ====
section
/-!
SUPPORT. Tests and witnesses. Every expected value of a `test_` theorem is taken from
spec/95_test_vectors.md or 96_test_programs.md; the comment over it names the vector. A `witness_`
theorem shows a concrete state and operands that meet all hypotheses of the statement it is named
after.
-/

namespace Sys2Proof.Tests

open Sys2Proof.Machine

/-! ## WellFormed -/

theorem test_sa_31_fits : WellFormed (.sll 1 2 31) := by decide
theorem test_sa_32_refused : ¬WellFormed (.sll 1 2 32) := by decide
theorem test_dsra32_sa_32_refused : ¬WellFormed (.dsra32 1 2 32) := by decide
theorem test_imm_65535_fits : WellFormed (.addi 1 2 65535) := by decide
theorem test_imm_65536_refused : ¬WellFormed (.addi 1 2 65536) := by decide
theorem test_mem_imm_65536_refused : ¬WellFormed (.sdc1 1 65536 2) := by decide
theorem test_index_max_fits : WellFormed (.j 67108863) := by decide
theorem test_index_over_refused : ¬WellFormed (.jal 67108864) := by decide

/-! ## Decoding: table E1, each word written out field by field from the encoding of its row (R92, R104) -/

theorem test_decode_intAlu1 :
    decode 0b000000_00001_00010_00011_00000_100000#32 = .ins (.add 3 1 2) ∧
    decode 0b000000_00001_00010_00011_00000_100001#32 = .ins (.addu 3 1 2) ∧
    decode 0b000000_00001_00010_00011_00000_100010#32 = .ins (.sub 3 1 2) ∧
    decode 0b000000_00001_00010_00011_00000_100011#32 = .ins (.subu 3 1 2) ∧
    decode 0b000000_00001_00010_00011_00000_101100#32 = .ins (.dadd 3 1 2) ∧
    decode 0b000000_00001_00010_00011_00000_101101#32 = .ins (.daddu 3 1 2) ∧
    decode 0b000000_00001_00010_00011_00000_101110#32 = .ins (.dsub 3 1 2) ∧
    decode 0b000000_00001_00010_00011_00000_101111#32 = .ins (.dsubu 3 1 2) ∧
    decode 0b000000_00001_00010_00011_00000_100100#32 = .ins (.and 3 1 2) ∧
    decode 0b000000_00001_00010_00011_00000_100101#32 = .ins (.or 3 1 2) ∧
    decode 0b000000_00001_00010_00011_00000_100110#32 = .ins (.xor 3 1 2) := by decide
theorem test_decode_intAlu2 :
    decode 0b000000_00001_00010_00011_00000_100111#32 = .ins (.nor 3 1 2) ∧
    decode 0b000000_00001_00010_00011_00000_101010#32 = .ins (.slt 3 1 2) ∧
    decode 0b000000_00001_00010_00011_00000_101011#32 = .ins (.sltu 3 1 2) ∧
    decode 0b000000_00000_00010_00011_00111_000000#32 = .ins (.sll 3 2 7) ∧
    decode 0b000000_00000_00010_00011_00111_000010#32 = .ins (.srl 3 2 7) ∧
    decode 0b000000_00000_00010_00011_00111_000011#32 = .ins (.sra 3 2 7) ∧
    decode 0b000000_00000_00010_00011_00111_111000#32 = .ins (.dsll 3 2 7) ∧
    decode 0b000000_00000_00010_00011_00111_111010#32 = .ins (.dsrl 3 2 7) ∧
    decode 0b000000_00000_00010_00011_00111_111011#32 = .ins (.dsra 3 2 7) ∧
    decode 0b000000_00000_00010_00011_00111_111100#32 = .ins (.dsll32 3 2 7) ∧
    decode 0b000000_00000_00010_00011_00111_111110#32 = .ins (.dsrl32 3 2 7) := by decide
theorem test_decode_intAlu3 :
    decode 0b000000_00000_00010_00011_00111_111111#32 = .ins (.dsra32 3 2 7) ∧
    decode 0b000000_00001_00010_00011_00000_000100#32 = .ins (.sllv 3 2 1) ∧
    decode 0b000000_00001_00010_00011_00000_000110#32 = .ins (.srlv 3 2 1) ∧
    decode 0b000000_00001_00010_00011_00000_000111#32 = .ins (.srav 3 2 1) ∧
    decode 0b000000_00001_00010_00011_00000_010100#32 = .ins (.dsllv 3 2 1) ∧
    decode 0b000000_00001_00010_00011_00000_010110#32 = .ins (.dsrlv 3 2 1) ∧
    decode 0b000000_00001_00010_00011_00000_010111#32 = .ins (.dsrav 3 2 1) ∧
    decode 0b000000_00001_00010_00011_00000_001010#32 = .ins (.movz 3 1 2) ∧
    decode 0b000000_00001_00010_00011_00000_001011#32 = .ins (.movn 3 1 2) := by decide
theorem test_decode_intImm1 :
    decode 0b001000_00001_00010_1000000000000001#32 = .ins (.addi 2 1 0x8001) ∧
    decode 0b001001_00001_00010_1000000000000001#32 = .ins (.addiu 2 1 0x8001) ∧
    decode 0b011000_00001_00010_1000000000000001#32 = .ins (.daddi 2 1 0x8001) ∧
    decode 0b011001_00001_00010_1000000000000001#32 = .ins (.daddiu 2 1 0x8001) ∧
    decode 0b001010_00001_00010_1000000000000001#32 = .ins (.slti 2 1 0x8001) ∧
    decode 0b001011_00001_00010_1000000000000001#32 = .ins (.sltiu 2 1 0x8001) ∧
    decode 0b001100_00001_00010_1000000000000001#32 = .ins (.andi 2 1 0x8001) ∧
    decode 0b001101_00001_00010_1000000000000001#32 = .ins (.ori 2 1 0x8001) ∧
    decode 0b001110_00001_00010_1000000000000001#32 = .ins (.xori 2 1 0x8001) ∧
    decode 0b001111_00000_00010_1000000000000001#32 = .ins (.lui 2 0x8001) := by decide
theorem test_decode_mulDiv1 :
    decode 0b000000_00001_00010_00011_00010_011000#32 = .ins (.mul 3 1 2) ∧
    decode 0b000000_00001_00010_00011_00011_011000#32 = .ins (.muh 3 1 2) ∧
    decode 0b000000_00001_00010_00011_00010_011001#32 = .ins (.mulu 3 1 2) ∧
    decode 0b000000_00001_00010_00011_00011_011001#32 = .ins (.muhu 3 1 2) ∧
    decode 0b000000_00001_00010_00011_00010_011010#32 = .ins (.div 3 1 2) ∧
    decode 0b000000_00001_00010_00011_00011_011010#32 = .ins (.mod 3 1 2) ∧
    decode 0b000000_00001_00010_00011_00010_011011#32 = .ins (.divu 3 1 2) ∧
    decode 0b000000_00001_00010_00011_00011_011011#32 = .ins (.modu 3 1 2) ∧
    decode 0b000000_00001_00010_00011_00010_011100#32 = .ins (.dmul 3 1 2) ∧
    decode 0b000000_00001_00010_00011_00011_011100#32 = .ins (.dmuh 3 1 2) ∧
    decode 0b000000_00001_00010_00011_00010_011101#32 = .ins (.dmulu 3 1 2) := by decide
theorem test_decode_mulDiv2 :
    decode 0b000000_00001_00010_00011_00011_011101#32 = .ins (.dmuhu 3 1 2) ∧
    decode 0b000000_00001_00010_00011_00010_011110#32 = .ins (.ddiv 3 1 2) ∧
    decode 0b000000_00001_00010_00011_00011_011110#32 = .ins (.dmod 3 1 2) ∧
    decode 0b000000_00001_00010_00011_00010_011111#32 = .ins (.ddivu 3 1 2) ∧
    decode 0b000000_00001_00010_00011_00011_011111#32 = .ins (.dmodu 3 1 2) := by decide
theorem test_decode_loadStore1 :
    decode 0b100000_00001_00010_1111111111111000#32 = .ins (.lb 2 0xFFF8 1) ∧
    decode 0b100100_00001_00010_1111111111111000#32 = .ins (.lbu 2 0xFFF8 1) ∧
    decode 0b100001_00001_00010_1111111111111000#32 = .ins (.lh 2 0xFFF8 1) ∧
    decode 0b100101_00001_00010_1111111111111000#32 = .ins (.lhu 2 0xFFF8 1) ∧
    decode 0b100011_00001_00010_1111111111111000#32 = .ins (.lw 2 0xFFF8 1) ∧
    decode 0b100111_00001_00010_1111111111111000#32 = .ins (.lwu 2 0xFFF8 1) ∧
    decode 0b110111_00001_00010_1111111111111000#32 = .ins (.ld 2 0xFFF8 1) ∧
    decode 0b101000_00001_00010_1111111111111000#32 = .ins (.sb 2 0xFFF8 1) ∧
    decode 0b101001_00001_00010_1111111111111000#32 = .ins (.sh 2 0xFFF8 1) ∧
    decode 0b101011_00001_00010_1111111111111000#32 = .ins (.sw 2 0xFFF8 1) ∧
    decode 0b111111_00001_00010_1111111111111000#32 = .ins (.sd 2 0xFFF8 1) := by decide
theorem test_decode_control1 :
    decode 0b000100_00001_00010_1111111111111101#32 = .ins (.beq 1 2 0xFFFD) ∧
    decode 0b000101_00001_00010_1111111111111101#32 = .ins (.bne 1 2 0xFFFD) ∧
    decode 0b000110_00001_00000_0000000000010000#32 = .ins (.blez 1 0x10) ∧
    decode 0b000111_00001_00000_0000000000010000#32 = .ins (.bgtz 1 0x10) ∧
    decode 0b000001_00001_00001_0000000000010000#32 = .ins (.bgez 1 0x10) ∧
    decode 0b000010_00000000000000000000010000#32 = .ins (.j 0x10) ∧
    decode 0b000011_00000000000000000000010000#32 = .ins (.jal 0x10) ∧
    decode 0b000000_11111_00000_00000_00000_001000#32 = .ins (.jr 31) ∧
    decode 0b000000_00101_00000_11111_00000_001001#32 = .ins (.jalr 31 5) ∧
    decode 0b000001_00000_00000_00000_00000_000000#32 = .ins .halt := by decide
theorem test_decode_fpu1 :
    decode 0b010001_10001_00010_00001_00011_000000#32 = .ins (.addD 3 1 2) ∧
    decode 0b010001_10001_00010_00001_00011_000001#32 = .ins (.subD 3 1 2) ∧
    decode 0b010001_10001_00010_00001_00011_000010#32 = .ins (.mulD 3 1 2) ∧
    decode 0b010001_10001_00010_00001_00011_000011#32 = .ins (.divD 3 1 2) ∧
    decode 0b010001_10001_00000_00001_00011_000101#32 = .ins (.absD 3 1) ∧
    decode 0b010001_10001_00000_00001_00011_000110#32 = .ins (.movD 3 1) ∧
    decode 0b010001_10001_00000_00001_00011_000111#32 = .ins (.negD 3 1) ∧
    decode 0b010001_10001_00000_00001_00011_100101#32 = .ins (.cvtLD 3 1) ∧
    decode 0b010001_10101_00000_00001_00011_100001#32 = .ins (.cvtDL 3 1) ∧
    decode 0b010001_10101_00010_00001_00011_000001#32 = .ins (.cmpUnD 3 1 2) ∧
    decode 0b010001_10101_00010_00001_00011_000010#32 = .ins (.cmpEqD 3 1 2) := by decide
theorem test_decode_fpu2 :
    decode 0b010001_10101_00010_00001_00011_000100#32 = .ins (.cmpLtD 3 1 2) ∧
    decode 0b010001_10101_00010_00001_00011_000110#32 = .ins (.cmpLeD 3 1 2) ∧
    decode 0b010001_00001_00010_00001_00000_000000#32 = .ins (.dmfc1 2 1) ∧
    decode 0b010001_00101_00010_00001_00000_000000#32 = .ins (.dmtc1 2 1) ∧
    decode 0b010001_01001_00101_0000000000000100#32 = .ins (.bc1eqz 5 4) ∧
    decode 0b010001_01101_00101_0000000000000100#32 = .ins (.bc1nez 5 4) ∧
    decode 0b110101_00001_00100_0000000000010000#32 = .ins (.ldc1 4 0x10 1) ∧
    decode 0b111101_00001_00100_0000000000010000#32 = .ins (.sdc1 4 0x10 1) := by decide

/-- Table E2: words that are no instruction. -/
def reservedWords : List IWord :=
  [0x0000000C#32, 0x0000000D#32, 0x0000000F#32, 0x00000001#32, 0x00000010#32, 0x00000018#32,
   0x0000001A#32, 0x00000118#32, 0x00000060#32, 0x00200000#32, 0x00200002#32, 0x00000044#32,
   0x00000808#32, 0x03E00408#32, 0x00A0FC09#32, 0x00A1F809#32, 0x04000001#32, 0x04200000#32,
   0x04100000#32, 0x04110000#32, 0x18010000#32, 0x1C010000#32] ++
  [0x3C200000#32, 0x70000002#32, 0x7C000000#32, 0x68000000#32, 0x6C000000#32, 0x88000000#32,
   0xBC000000#32, 0xC0000000#32, 0xC4000000#32, 0xD0000000#32, 0x40000000#32, 0x46000000#32,
   0x46200004#32, 0x46200024#32, 0x46200032#32, 0x46210005#32, 0x46A00020#32, 0x46A00000#32,
   0x45000000#32, 0x45010000#32, 0x44000000#32, 0x44200001#32]

-- Table E2.
theorem test_reserved_words :
    reservedWords.all (fun w => decode w == .reserved) = true := by decide +kernel

-- Table E3.
theorem test_odd_words :
    decode 0x00000000#32 = .ins (.sll 0 0 0) ∧ decode 0x00000040#32 = .ins (.sll 0 0 1) ∧
    decode 0x0000003F#32 = .ins (.dsra32 0 0 0) ∧ decode 0xFFFFFFFF#32 = .ins (.sd 31 0xFFFF 31) ∧
    decode 0x04010000#32 = .ins (.bgez 0 0) ∧ decode 0x1000FFFF#32 = .ins (.beq 0 0 0xFFFF) ∧
    decode 0x00000020#32 = .ins (.add 0 0 0) ∧ decode 0x0000F809#32 = .ins (.jalr 31 0) := by decide

-- Table E1, the words of ADD, BEQ and SD built by the encoder.
theorem test_encode :
    encode (.add 3 1 2) = 0x00221820#32 ∧ encode (.beq 1 2 0xFFFD) = 0x1022FFFD#32 ∧
    encode (.sd 2 0xFFF8 1) = 0xFC22FFF8#32 := by decide

theorem test_decodeTableWord :
    decodeTableWord 32 0x462208C0 = some (.addD 3 1 2) ∧ decodeTableWord 32 0x0000000C = none := by
  decide

/-! ## The executeHook: vectors V-A, V-I, V-D, V-F

One step in which the instruction, its operand snapshots latched, moves from ID to EX. -/

def noMask : Cfg := Cfg.allOff
def maskOvf : Cfg := { Cfg.allOff with maskOvf := true }
def maskDz : Cfg := { Cfg.allOff with maskDz := true }
def maskInv : Cfg := { Cfg.allOff with maskInv := true }
def maskUnf : Cfg := { Cfg.allOff with maskUnf := true }

/-- An entry of `i`, done with its stage. -/
def entryOf (i : Instr) : Entry :=
  { Entry.fresh 0#64 (encode i) 0 with ins := some i, done := true }

/-- A running core, fetch stopped, with one occupied slot. -/
def oneSlot (c : Cfg) (st : Stage) (e : Entry) : State :=
  { State.reset with
    runState := .running, fetchEnable := false, cfg := c, slots := Slots.only st e }

/-- The result, or the fault, of the step in which `i` executes on the given snapshots. -/
def exResult (c : Cfg) (i : Instr) (a b old : Word) : Option (Word ⊕ FaultKind) :=
  match step (oneSlot c .ID { entryOf i with a := a, b := b, c := old }) with
  | .next t =>
    match t.faultRec, t.slot .EX with
    | some r, _ => some (.inr r.kind)
    | none, some e => if e.resValid then some (.inl e.res) else none
    | none, none => none
  | _ => none

-- V-A1, V-A5
theorem test_result_add :
    exResult noMask (.add 3 1 2) 0x7FFFFFFF#64 0x1#64 0x0#64 = some (.inr .overflow) ∧
    exResult maskOvf (.add 3 1 2) 0x123456787FFFFFFF#64 0xABCDEF0000000001#64 0x0#64 = some (.inl 0x7FFFFFFF#64) := by decide
-- V-A8, V-A9
theorem test_result_addu :
    exResult noMask (.addu 3 1 2) 0x7FFFFFFF#64 0x1#64 0x0#64 = some (.inl 0xFFFFFFFF80000000#64) ∧
    exResult noMask (.addu 3 1 2) 0xFFFFFFFF#64 0x1#64 0x0#64 = some (.inl 0x0#64) := by decide
-- V-A13, V-A14
theorem test_result_sub :
    exResult maskOvf (.sub 3 1 2) 0x0#64 0xFFFFFFFF80000000#64 0x0#64 = some (.inl 0x7FFFFFFF#64) ∧
    exResult noMask (.sub 3 1 2) 0x3#64 0x5#64 0x0#64 = some (.inl 0xFFFFFFFFFFFFFFFE#64) := by decide
-- V-A15, V-A16
theorem test_result_subu :
    exResult noMask (.subu 3 1 2) 0xFFFFFFFF80000000#64 0x1#64 0x0#64 = some (.inl 0x7FFFFFFF#64) ∧
    exResult noMask (.subu 3 1 2) 0x0#64 0x1#64 0x0#64 = some (.inl 0xFFFFFFFFFFFFFFFF#64) := by decide
-- V-A19, V-A20
theorem test_result_dadd :
    exResult maskOvf (.dadd 3 1 2) 0x8000000000000000#64 0xFFFFFFFFFFFFFFFF#64 0x0#64 = some (.inl 0x8000000000000000#64) ∧
    exResult noMask (.dadd 3 1 2) 0x7FFFFFFF#64 0x1#64 0x0#64 = some (.inl 0x80000000#64) := by decide
-- V-A21, V-A22
theorem test_result_daddu :
    exResult noMask (.daddu 3 1 2) 0x7FFFFFFFFFFFFFFF#64 0x1#64 0x0#64 = some (.inl 0x8000000000000000#64) ∧
    exResult noMask (.daddu 3 1 2) 0xFFFFFFFFFFFFFFFF#64 0x1#64 0x0#64 = some (.inl 0x0#64) := by decide
-- V-A24, V-A25
theorem test_result_dsub :
    exResult maskOvf (.dsub 3 1 2) 0x8000000000000000#64 0x1#64 0x0#64 = some (.inl 0x8000000000000000#64) ∧
    exResult noMask (.dsub 3 1 2) 0x0#64 0x8000000000000000#64 0x0#64 = some (.inr .overflow) := by decide
-- V-A27, V-A28
theorem test_result_dsubu :
    exResult noMask (.dsubu 3 1 2) 0x8000000000000000#64 0x1#64 0x0#64 = some (.inl 0x7FFFFFFFFFFFFFFF#64) ∧
    exResult noMask (.dsubu 3 1 2) 0x0#64 0x1#64 0x0#64 = some (.inl 0xFFFFFFFFFFFFFFFF#64) := by decide
-- V-A29
theorem test_result_and :
    exResult noMask (.and 3 1 2) 0xFF00FF00FF00FF00#64 0xFF00FF00FF00FF0#64 0x0#64 = some (.inl 0xF000F000F000F00#64) := by decide
-- V-A30
theorem test_result_or :
    exResult noMask (.or 3 1 2) 0xFF00FF00FF00FF00#64 0xFF00FF00FF00FF0#64 0x0#64 = some (.inl 0xFFF0FFF0FFF0FFF0#64) := by decide
-- V-A31
theorem test_result_xor :
    exResult noMask (.xor 3 1 2) 0xFF00FF00FF00FF00#64 0xFF00FF00FF00FF0#64 0x0#64 = some (.inl 0xF0F0F0F0F0F0F0F0#64) := by decide
-- V-A32, V-A33
theorem test_result_nor :
    exResult noMask (.nor 3 1 2) 0xFF00FF00FF00FF00#64 0xFF00FF00FF00FF0#64 0x0#64 = some (.inl 0xF000F000F000F#64) ∧
    exResult noMask (.nor 3 1 2) 0x0#64 0x0#64 0x0#64 = some (.inl 0xFFFFFFFFFFFFFFFF#64) := by decide
-- V-A35, V-A37
theorem test_result_slt :
    exResult noMask (.slt 3 1 2) 0x1#64 0xFFFFFFFFFFFFFFFF#64 0x0#64 = some (.inl 0x0#64) ∧
    exResult noMask (.slt 3 1 2) 0x8000000000000000#64 0x7FFFFFFFFFFFFFFF#64 0x0#64 = some (.inl 0x1#64) := by decide
-- V-A38, V-A40
theorem test_result_sltu :
    exResult noMask (.sltu 3 1 2) 0xFFFFFFFFFFFFFFFF#64 0x1#64 0x0#64 = some (.inl 0x0#64) ∧
    exResult noMask (.sltu 3 1 2) 0x0#64 0x0#64 0x0#64 = some (.inl 0x0#64) := by decide
-- V-A41, V-A44
theorem test_result_sll :
    exResult noMask (.sll 3 2 31) 0x1#64 0x0#64 0x0#64 = some (.inl 0xFFFFFFFF80000000#64) ∧
    exResult noMask (.sll 3 2 4) 0x123456789ABCDEF0#64 0x0#64 0x0#64 = some (.inl 0xFFFFFFFFABCDEF00#64) := by decide
-- V-A45, V-A47
theorem test_result_srl :
    exResult noMask (.srl 3 2 31) 0xFFFFFFFF80000000#64 0x0#64 0x0#64 = some (.inl 0x1#64) ∧
    exResult noMask (.srl 3 2 4) 0x1234567880000000#64 0x0#64 0x0#64 = some (.inl 0x8000000#64) := by decide
-- V-A48, V-A50
theorem test_result_sra :
    exResult noMask (.sra 3 2 31) 0xFFFFFFFF80000000#64 0x0#64 0x0#64 = some (.inl 0xFFFFFFFFFFFFFFFF#64) ∧
    exResult noMask (.sra 3 2 4) 0x7FFFFFFF#64 0x0#64 0x0#64 = some (.inl 0x7FFFFFF#64) := by decide
-- V-A51, V-A52
theorem test_result_dsll :
    exResult noMask (.dsll 3 2 31) 0x1#64 0x0#64 0x0#64 = some (.inl 0x80000000#64) ∧
    exResult noMask (.dsll 3 2 1) 0x8000000000000001#64 0x0#64 0x0#64 = some (.inl 0x2#64) := by decide
-- V-A53, V-A54
theorem test_result_dsrl :
    exResult noMask (.dsrl 3 2 31) 0x8000000000000000#64 0x0#64 0x0#64 = some (.inl 0x100000000#64) ∧
    exResult noMask (.dsrl 3 2 0) 0x8000000000000000#64 0x0#64 0x0#64 = some (.inl 0x8000000000000000#64) := by decide
-- V-A55, V-A56
theorem test_result_dsra :
    exResult noMask (.dsra 3 2 31) 0x8000000000000000#64 0x0#64 0x0#64 = some (.inl 0xFFFFFFFF00000000#64) ∧
    exResult noMask (.dsra 3 2 31) 0x4000000000000000#64 0x0#64 0x0#64 = some (.inl 0x80000000#64) := by decide
-- V-A57, V-A59
theorem test_result_dsll32 :
    exResult noMask (.dsll32 3 2 0) 0x1#64 0x0#64 0x0#64 = some (.inl 0x100000000#64) ∧
    exResult noMask (.dsll32 3 2 31) 0x3#64 0x0#64 0x0#64 = some (.inl 0x8000000000000000#64) := by decide
-- V-A60, V-A61
theorem test_result_dsrl32 :
    exResult noMask (.dsrl32 3 2 31) 0x8000000000000000#64 0x0#64 0x0#64 = some (.inl 0x1#64) ∧
    exResult noMask (.dsrl32 3 2 0) 0xFEDCBA9876543210#64 0x0#64 0x0#64 = some (.inl 0xFEDCBA98#64) := by decide
-- V-A62, V-A63
theorem test_result_dsra32 :
    exResult noMask (.dsra32 3 2 31) 0x8000000000000000#64 0x0#64 0x0#64 = some (.inl 0xFFFFFFFFFFFFFFFF#64) ∧
    exResult noMask (.dsra32 3 2 0) 0xFEDCBA9876543210#64 0x0#64 0x0#64 = some (.inl 0xFFFFFFFFFEDCBA98#64) := by decide
-- V-A64, V-A65
theorem test_result_sllv :
    exResult noMask (.sllv 3 2 1) 0x21#64 0x1#64 0x0#64 = some (.inl 0x2#64) ∧
    exResult noMask (.sllv 3 2 1) 0x1F#64 0x1#64 0x0#64 = some (.inl 0xFFFFFFFF80000000#64) := by decide
-- V-A66
theorem test_result_srlv :
    exResult noMask (.srlv 3 2 1) 0x24#64 0xFFFFFFFF80000000#64 0x0#64 = some (.inl 0x8000000#64) := by decide
-- V-A67
theorem test_result_srav :
    exResult noMask (.srav 3 2 1) 0x24#64 0xFFFFFFFF80000000#64 0x0#64 = some (.inl 0xFFFFFFFFF8000000#64) := by decide
-- V-A68, V-A69
theorem test_result_dsllv :
    exResult noMask (.dsllv 3 2 1) 0x41#64 0x1#64 0x0#64 = some (.inl 0x2#64) ∧
    exResult noMask (.dsllv 3 2 1) 0x3F#64 0x1#64 0x0#64 = some (.inl 0x8000000000000000#64) := by decide
-- V-A70
theorem test_result_dsrlv :
    exResult noMask (.dsrlv 3 2 1) 0x44#64 0x8000000000000000#64 0x0#64 = some (.inl 0x800000000000000#64) := by decide
-- V-A71, V-A72
theorem test_result_dsrav :
    exResult noMask (.dsrav 3 2 1) 0x44#64 0x8000000000000000#64 0x0#64 = some (.inl 0xF800000000000000#64) ∧
    exResult noMask (.dsrav 3 2 1) 0x3F#64 0x8000000000000000#64 0x0#64 = some (.inl 0xFFFFFFFFFFFFFFFF#64) := by decide
-- V-A73, V-A74
theorem test_result_movz :
    exResult noMask (.movz 3 1 2) 0xAAAA#64 0x0#64 0xCCCC#64 = some (.inl 0xAAAA#64) ∧
    exResult noMask (.movz 3 1 2) 0xAAAA#64 0x1#64 0xCCCC#64 = some (.inl 0xCCCC#64) := by decide
-- V-A75, V-A76
theorem test_result_movn :
    exResult noMask (.movn 3 1 2) 0xAAAA#64 0x0#64 0xCCCC#64 = some (.inl 0xCCCC#64) ∧
    exResult noMask (.movn 3 1 2) 0xAAAA#64 0x8000000000000000#64 0xCCCC#64 = some (.inl 0xAAAA#64) := by decide
-- V-I1, V-I6
theorem test_result_addi :
    exResult noMask (.addi 2 1 1) 0x7FFFFFFF#64 0x0#64 0x0#64 = some (.inr .overflow) ∧
    exResult noMask (.addi 2 1 0x10) 0xAAAAAAAA00000005#64 0x0#64 0x0#64 = some (.inl 0x15#64) := by decide
-- V-I7, V-I8
theorem test_result_addiu :
    exResult noMask (.addiu 2 1 1) 0x7FFFFFFF#64 0x0#64 0x0#64 = some (.inl 0xFFFFFFFF80000000#64) ∧
    exResult noMask (.addiu 2 1 0x8000) 0x0#64 0x0#64 0x0#64 = some (.inl 0xFFFFFFFFFFFF8000#64) := by decide
-- V-I9, V-I13
theorem test_result_daddi :
    exResult noMask (.daddi 2 1 1) 0x7FFFFFFFFFFFFFFF#64 0x0#64 0x0#64 = some (.inr .overflow) ∧
    exResult noMask (.daddi 2 1 1) 0x7FFFFFFF#64 0x0#64 0x0#64 = some (.inl 0x80000000#64) := by decide
-- V-I14, V-I16
theorem test_result_daddiu :
    exResult noMask (.daddiu 2 1 1) 0x7FFFFFFFFFFFFFFF#64 0x0#64 0x0#64 = some (.inl 0x8000000000000000#64) ∧
    exResult noMask (.daddiu 2 1 0x7FFF) 0x0#64 0x0#64 0x0#64 = some (.inl 0x7FFF#64) := by decide
-- V-I17, V-I19
theorem test_result_slti :
    exResult noMask (.slti 2 1 0) 0xFFFFFFFFFFFFFFFF#64 0x0#64 0x0#64 = some (.inl 0x1#64) ∧
    exResult noMask (.slti 2 1 0x8001) 0xFFFFFFFFFFFF8000#64 0x0#64 0x0#64 = some (.inl 0x1#64) := by decide
-- V-I20, V-I23
theorem test_result_sltiu :
    exResult noMask (.sltiu 2 1 0xFFFF) 0x0#64 0x0#64 0x0#64 = some (.inl 0x1#64) ∧
    exResult noMask (.sltiu 2 1 1) 0x0#64 0x0#64 0x0#64 = some (.inl 0x1#64) := by decide
-- V-I24
theorem test_result_andi :
    exResult noMask (.andi 2 1 0x8001) 0xFFFFFFFFFFFFFFFF#64 0x0#64 0x0#64 = some (.inl 0x8001#64) := by decide
-- V-I25
theorem test_result_ori :
    exResult noMask (.ori 2 1 0x8001) 0xFFFF000000000000#64 0x0#64 0x0#64 = some (.inl 0xFFFF000000008001#64) := by decide
-- V-I26
theorem test_result_xori :
    exResult noMask (.xori 2 1 0xFFFF) 0xFFFFFFFFFFFFFFFF#64 0x0#64 0x0#64 = some (.inl 0xFFFFFFFFFFFF0000#64) := by decide
-- V-I27, V-I30
theorem test_result_lui :
    exResult noMask (.lui 2 0x8000) 0x0#64 0x0#64 0x0#64 = some (.inl 0xFFFFFFFF80000000#64) ∧
    exResult noMask (.lui 2 0) 0x0#64 0x0#64 0x0#64 = some (.inl 0x0#64) := by decide
-- V-D1, V-D4
theorem test_result_mul :
    exResult noMask (.mul 3 1 2) 0x7#64 0xFFFFFFFFFFFFFFFD#64 0x0#64 = some (.inl 0xFFFFFFFFFFFFFFEB#64) ∧
    exResult noMask (.mul 3 1 2) 0xAAAAAAAA00000003#64 0x5#64 0x0#64 = some (.inl 0xF#64) := by decide
-- V-D5, V-D7
theorem test_result_muh :
    exResult noMask (.muh 3 1 2) 0x7FFFFFFF#64 0x7FFFFFFF#64 0x0#64 = some (.inl 0x3FFFFFFF#64) ∧
    exResult noMask (.muh 3 1 2) 0xFFFFFFFF80000000#64 0xFFFFFFFF80000000#64 0x0#64 = some (.inl 0x40000000#64) := by decide
-- V-D8, V-D9
theorem test_result_mulu :
    exResult noMask (.mulu 3 1 2) 0xFFFFFFFF#64 0xFFFFFFFF#64 0x0#64 = some (.inl 0x1#64) ∧
    exResult noMask (.mulu 3 1 2) 0x80000000#64 0x2#64 0x0#64 = some (.inl 0x0#64) := by decide
-- V-D10, V-D12
theorem test_result_muhu :
    exResult noMask (.muhu 3 1 2) 0xFFFFFFFF#64 0xFFFFFFFF#64 0x0#64 = some (.inl 0xFFFFFFFFFFFFFFFE#64) ∧
    exResult noMask (.muhu 3 1 2) 0x80000000#64 0x2#64 0x0#64 = some (.inl 0x1#64) := by decide
-- V-D13, V-D19
theorem test_result_div :
    exResult noMask (.div 3 1 2) 0x7#64 0x2#64 0x0#64 = some (.inl 0x3#64) ∧
    exResult noMask (.div 3 1 2) 0x5#64 0x100000000#64 0x0#64 = some (.inr .divideByZero) := by decide
-- V-D20, V-D25
theorem test_result_mod :
    exResult noMask (.mod 3 1 2) 0x7#64 0x2#64 0x0#64 = some (.inl 0x1#64) ∧
    exResult maskDz (.mod 3 1 2) 0x1234567880000005#64 0x0#64 0x0#64 = some (.inl 0xFFFFFFFF80000005#64) := by decide
-- V-D26, V-D29
theorem test_result_divu :
    exResult noMask (.divu 3 1 2) 0xFFFFFFFF#64 0x2#64 0x0#64 = some (.inl 0x7FFFFFFF#64) ∧
    exResult noMask (.divu 3 1 2) 0x9#64 0x0#64 0x0#64 = some (.inr .divideByZero) := by decide
-- V-D30, V-D32
theorem test_result_modu :
    exResult noMask (.modu 3 1 2) 0xFFFFFFFF#64 0x2#64 0x0#64 = some (.inl 0x1#64) ∧
    exResult maskDz (.modu 3 1 2) 0x80000009#64 0x0#64 0x0#64 = some (.inl 0xFFFFFFFF80000009#64) := by decide
-- V-D33, V-D35
theorem test_result_dmul :
    exResult noMask (.dmul 3 1 2) 0x7#64 0xFFFFFFFFFFFFFFFD#64 0x0#64 = some (.inl 0xFFFFFFFFFFFFFFEB#64) ∧
    exResult noMask (.dmul 3 1 2) 0x7FFFFFFFFFFFFFFF#64 0x2#64 0x0#64 = some (.inl 0xFFFFFFFFFFFFFFFE#64) := by decide
-- V-D36, V-D39
theorem test_result_dmuh :
    exResult noMask (.dmuh 3 1 2) 0x7FFFFFFFFFFFFFFF#64 0x2#64 0x0#64 = some (.inl 0x0#64) ∧
    exResult noMask (.dmuh 3 1 2) 0x100000000#64 0x100000000#64 0x0#64 = some (.inl 0x1#64) := by decide
-- V-D40, V-D41
theorem test_result_dmulu :
    exResult noMask (.dmulu 3 1 2) 0xFFFFFFFFFFFFFFFF#64 0xFFFFFFFFFFFFFFFF#64 0x0#64 = some (.inl 0x1#64) ∧
    exResult noMask (.dmulu 3 1 2) 0x8000000000000000#64 0x2#64 0x0#64 = some (.inl 0x0#64) := by decide
-- V-D42, V-D44
theorem test_result_dmuhu :
    exResult noMask (.dmuhu 3 1 2) 0xFFFFFFFFFFFFFFFF#64 0xFFFFFFFFFFFFFFFF#64 0x0#64 = some (.inl 0xFFFFFFFFFFFFFFFE#64) ∧
    exResult noMask (.dmuhu 3 1 2) 0x8000000000000000#64 0x2#64 0x0#64 = some (.inl 0x1#64) := by decide
-- V-D45, V-D50
theorem test_result_ddiv :
    exResult noMask (.ddiv 3 1 2) 0x7#64 0x2#64 0x0#64 = some (.inl 0x3#64) ∧
    exResult noMask (.ddiv 3 1 2) 0x100000000#64 0x2#64 0x0#64 = some (.inl 0x80000000#64) := by decide
-- V-D51, V-D56
theorem test_result_dmod :
    exResult noMask (.dmod 3 1 2) 0x7#64 0x2#64 0x0#64 = some (.inl 0x1#64) ∧
    exResult noMask (.dmod 3 1 2) 0x5#64 0x0#64 0x0#64 = some (.inr .divideByZero) := by decide
-- V-D57, V-D59
theorem test_result_ddivu :
    exResult noMask (.ddivu 3 1 2) 0xFFFFFFFFFFFFFFFF#64 0x2#64 0x0#64 = some (.inl 0x7FFFFFFFFFFFFFFF#64) ∧
    exResult noMask (.ddivu 3 1 2) 0x9#64 0x0#64 0x0#64 = some (.inr .divideByZero) := by decide
-- V-D60, V-D62
theorem test_result_dmodu :
    exResult noMask (.dmodu 3 1 2) 0xFFFFFFFFFFFFFFFF#64 0x2#64 0x0#64 = some (.inl 0x1#64) ∧
    exResult maskDz (.dmodu 3 1 2) 0x9#64 0x0#64 0x0#64 = some (.inl 0x9#64) := by decide
-- V-F15, V-F6
theorem test_result_addD :
    exResult noMask (.addD 3 1 2) 0x3FF0000000000000#64 0x3CA0000002000000#64 0x0#64 = some (.inl 0x3FF0000000000001#64) ∧
    exResult noMask (.addD 3 1 2) 0x7FF0000000000000#64 0xFFF0000000000000#64 0x0#64 = some (.inr .invalidOperation) := by decide +kernel
-- V-F23, V-F22
theorem test_result_subD :
    exResult noMask (.subD 3 1 2) 0x10000000000001#64 0x10000000000000#64 0x0#64 = some (.inl 0x1#64) ∧
    exResult maskOvf (.subD 3 1 2) 0xFFEFFFFFFFFFFFFF#64 0x7FEFFFFFFFFFFFFF#64 0x0#64 = some (.inl 0xFFF0000000000000#64) := by decide +kernel
-- V-F36, V-F33
theorem test_result_mulD :
    exResult noMask (.mulD 3 1 2) 0x1FFFFFFFFFFFFF#64 0x3FE0000000000000#64 0x0#64 = some (.inr .underflow) ∧
    exResult maskUnf (.mulD 3 1 2) 0x1#64 0xBFD0000000000000#64 0x0#64 = some (.inl 0x8000000000000000#64) := by decide +kernel
-- V-F38, V-F41
theorem test_result_divD :
    exResult noMask (.divD 3 1 2) 0x3FF0000000000000#64 0x4008000000000000#64 0x0#64 = some (.inl 0x3FD5555555555555#64) ∧
    exResult maskDz (.divD 3 1 2) 0xBFF0000000000000#64 0x0#64 0x0#64 = some (.inl 0xFFF0000000000000#64) := by decide +kernel
-- V-F51, V-F53
theorem test_result_absD :
    exResult noMask (.absD 3 1) 0xBFF8000000000000#64 0x0#64 0x0#64 = some (.inl 0x3FF8000000000000#64) ∧
    exResult noMask (.absD 3 1) 0xFFF0000000000001#64 0x0#64 0x0#64 = some (.inl 0x7FF0000000000001#64) := by decide
-- V-F57
theorem test_result_movD :
    exResult noMask (.movD 3 1) 0x7FF0000000000001#64 0x0#64 0x0#64 = some (.inl 0x7FF0000000000001#64) := by decide
-- V-F54, V-F56
theorem test_result_negD :
    exResult noMask (.negD 3 1) 0x3FF8000000000000#64 0x0#64 0x0#64 = some (.inl 0xBFF8000000000000#64) ∧
    exResult noMask (.negD 3 1) 0x7FF0000000000001#64 0x0#64 0x0#64 = some (.inl 0xFFF0000000000001#64) := by decide
-- V-F60, V-F66
theorem test_result_cvtLD :
    exResult noMask (.cvtLD 3 1) 0xC004000000000000#64 0x0#64 0x0#64 = some (.inl 0xFFFFFFFFFFFFFFFE#64) ∧
    exResult noMask (.cvtLD 3 1) 0x43E0000000000000#64 0x0#64 0x0#64 = some (.inr .invalidOperation) := by decide +kernel
-- V-F73, V-F75
theorem test_result_cvtDL :
    exResult noMask (.cvtDL 3 1) 0x20000000000003#64 0x0#64 0x0#64 = some (.inl 0x4340000000000002#64) ∧
    exResult noMask (.cvtDL 3 1) 0x8000000000000000#64 0x0#64 0x0#64 = some (.inl 0xC3E0000000000000#64) := by decide +kernel
-- V-F78, V-F79
theorem test_result_cmpUnD :
    exResult noMask (.cmpUnD 3 1 2) 0x7FF8000000000123#64 0x4000000000000000#64 0x0#64 = some (.inl 0xFFFFFFFFFFFFFFFF#64) ∧
    exResult noMask (.cmpUnD 3 1 2) 0x7FF0000000000001#64 0x4000000000000000#64 0x0#64 = some (.inr .invalidOperation) := by decide +kernel
-- V-F82, V-F84
theorem test_result_cmpEqD :
    exResult noMask (.cmpEqD 3 1 2) 0x0#64 0x8000000000000000#64 0x0#64 = some (.inl 0xFFFFFFFFFFFFFFFF#64) ∧
    exResult maskInv (.cmpEqD 3 1 2) 0x7FF0000000000001#64 0x3FF0000000000000#64 0x0#64 = some (.inl 0x0#64) := by decide +kernel
-- V-F86, V-F89
theorem test_result_cmpLtD :
    exResult noMask (.cmpLtD 3 1 2) 0x3FF0000000000000#64 0x4000000000000000#64 0x0#64 = some (.inl 0xFFFFFFFFFFFFFFFF#64) ∧
    exResult noMask (.cmpLtD 3 1 2) 0x8000000000000000#64 0x0#64 0x0#64 = some (.inl 0x0#64) := by decide +kernel
-- V-F93, V-F95
theorem test_result_cmpLeD :
    exResult noMask (.cmpLeD 3 1 2) 0x8000000000000000#64 0x0#64 0x0#64 = some (.inl 0xFFFFFFFFFFFFFFFF#64) ∧
    exResult noMask (.cmpLeD 3 1 2) 0x3FF0000000000000#64 0x7FF8000000000123#64 0x0#64 = some (.inl 0x0#64) := by decide +kernel
-- V-F97
theorem test_result_dmfc1 :
    exResult noMask (.dmfc1 2 1) 0x123456789ABCDEF0#64 0x0#64 0x0#64 = some (.inl 0x123456789ABCDEF0#64) := by decide
-- V-F98
theorem test_result_dmtc1 :
    exResult noMask (.dmtc1 2 1) 0x7FF0000000000001#64 0x0#64 0x0#64 = some (.inl 0x7FF0000000000001#64) := by decide

/-! ## The memoryHook: vectors V-M

One step in which a load or store, its effective address set, moves from EX to MEM. -/

/-- DMEM as the vectors have it. -/
def vectorBytes : Memory 8 :=
  Memory.ofImage [(0, 0x88#8), (1, 0x99#8), (2, 0xAA#8), (3, 0xBB#8), (4, 0xCC#8), (5, 0xDD#8),
    (6, 0xEE#8), (7, 0xFF#8), (8, 0x01#8), (9, 0x23#8), (10, 0x45#8), (11, 0x67#8), (12, 0x89#8),
    (13, 0xAB#8), (14, 0xCD#8), (15, 0x7F#8)]

/-- The core with `i` done in EX, its address and data set. -/
def memState (i : Instr) (ea data : Word) : State :=
  { oneSlot Cfg.allOff .EX { entryOf i with ea := ea, b := data } with dmem := vectorBytes }

/-- What a load brings into its entry, or the fault record. -/
def loadResult (i : Instr) (ea : Word) : Option (Word ⊕ FaultRec) :=
  match step (memState i ea 0#64) with
  | .next t =>
    match t.faultRec, t.slot .MEM with
    | some r, _ => some (.inr r)
    | none, some e => if e.resValid then some (.inl e.res) else none
    | none, none => none
  | _ => none

/-- The sixteen low bytes of DMEM after a store, highest first, or the fault record. -/
def storeResult (i : Instr) (ea : Word) : Option (Nat ⊕ FaultRec) :=
  match step (memState i ea 0x1122334455667788#64) with
  | .next t =>
    match t.faultRec with
    | some r => some (.inr r)
    | none => some (.inl (Memory.readBytes t.dmem 0 16))
  | _ => none

/-- An alignment fault of the entry at address 0. -/
def misaligned (ea : Word) (n : Nat) (w : IWord) : FaultRec :=
  { kind := .alignmentFault, code := 1, ia := 0#64, addr := ea, align := n, word := w }

/-- An address fault of the entry at address 0. -/
def outside (ea : Word) (w : IWord) : FaultRec :=
  { kind := .addressFault, code := 6, ia := 0#64, addr := ea, align := 0, word := w }

-- V-M1, V-M32
theorem test_lb :
    loadResult (.lb 2 0 1) 0#64 = some (.inl 0xFFFFFFFFFFFFFF88#64) ∧
    loadResult (.lb 2 0 1) 0x1000#64 = some (.inr (outside 0x1000#64 0x80220000#32)) := by decide
-- V-M4
theorem test_lbu : loadResult (.lbu 2 7 0) 7#64 = some (.inl 0xFF#64) := by decide
-- V-M5, V-M39
theorem test_lh :
    loadResult (.lh 2 2 0) 2#64 = some (.inl 0xFFFFFFFFFFFFBBAA#64) ∧
    loadResult (.lh 2 0 1) 0xFFF#64 = some (.inr (misaligned 0xFFF#64 2 0x84220000#32)) := by decide
-- V-M6, V-M22
theorem test_lhu :
    loadResult (.lhu 2 2 0) 2#64 = some (.inl 0xBBAA#64) ∧
    loadResult (.lhu 2 3 0) 3#64 = some (.inr (misaligned 3#64 2 0x94020003#32)) := by decide
-- V-M8, V-M34
theorem test_lw :
    loadResult (.lw 2 4 0) 4#64 = some (.inl 0xFFFFFFFFFFEEDDCC#64) ∧
    loadResult (.lw 2 0 1) 0xFFC#64 = some (.inl 0#64) := by decide
-- V-M9, V-M24
theorem test_lwu :
    loadResult (.lwu 2 4 0) 4#64 = some (.inl 0xFFEEDDCC#64) ∧
    loadResult (.lwu 2 6 0) 6#64 = some (.inr (misaligned 6#64 4 0x9C020006#32)) := by decide
-- V-M12, V-M41
theorem test_ld :
    loadResult (.ld 2 8 0) 8#64 = some (.inl 0x7FCDAB8967452301#64) ∧
    loadResult (.ld 2 0 1) 0xFFFFFFFFFFFFFFFC#64 =
      some (.inr (misaligned 0xFFFFFFFFFFFFFFFC#64 8 0xDC220000#32)) := by decide
-- V-M29; 46_fpu.md R327 on the bytes of V-M11
theorem test_ldc1 :
    loadResult (.ldc1 2 4 0) 4#64 = some (.inr (misaligned 4#64 8 0xD4020004#32)) ∧
    loadResult (.ldc1 2 0 0) 0#64 = some (.inl 0xFFEEDDCCBBAA9988#64) := by decide
-- V-M16, V-M38
theorem test_sb :
    storeResult (.sb 2 3 0) 3#64 = some (.inl 0x7FCDAB8967452301FFEEDDCC88AA9988) ∧
    storeResult (.sb 2 0 1) 0x8000000000000000#64 =
      some (.inr (outside 0x8000000000000000#64 0xA0220000#32)) := by decide
-- V-M17, V-M26
theorem test_sh :
    storeResult (.sh 2 6 0) 6#64 = some (.inl 0x7FCDAB89674523017788DDCCBBAA9988) ∧
    storeResult (.sh 2 1 0) 1#64 = some (.inr (misaligned 1#64 2 0xA4020001#32)) := by decide
-- V-M18, V-M40
theorem test_sw :
    storeResult (.sw 2 8 0) 8#64 = some (.inl 0x7FCDAB8955667788FFEEDDCCBBAA9988) ∧
    storeResult (.sw 2 0 1) 0xFFE#64 = some (.inr (misaligned 0xFFE#64 4 0xAC220000#32)) := by decide
-- V-M19, V-M37
theorem test_sd :
    storeResult (.sd 2 8 0) 8#64 = some (.inl 0x1122334455667788FFEEDDCCBBAA9988) ∧
    storeResult (.sd 2 0 1) 0x1000#64 = some (.inr (outside 0x1000#64 0xFC220000#32)) := by decide
-- V-M30; 46_fpu.md R328 as V-M19
theorem test_sdc1 :
    storeResult (.sdc1 2 12 0) 12#64 = some (.inr (misaligned 12#64 8 0xF402000C#32)) ∧
    storeResult (.sdc1 2 8 0) 8#64 = some (.inl 0x1122334455667788FFEEDDCCBBAA9988) := by decide

/-! ## The fetchHook: vectors V-C

One step that fetches the word at `ia`; the answer is the pc after it. -/

/-- The core about to fetch `w` at `ia`, with `x[1]`, `x[2]`, `x[5]` and `f[5]` preset. -/
def fetchState (ia : Word) (w : IWord) (x1 x2 x5 f5 : Word) : State :=
  ({ (((State.reset.writeX 1 x1).writeX 2 x2).writeX 5 x5).writeF 5 f5 with
    pc := ia }).withFetchWord 32 w.toNat

/-- The pc after the step. -/
def pcAfter (ia : Word) (w : IWord) (x1 x2 x5 f5 : Word) : Option Word :=
  match step (fetchState ia w x1 x2 x5 f5) with
  | .next t => if t.runState = .running then some t.pc else none
  | _ => none

-- V-C1, V-C3, V-C6
theorem test_beq :
    pcAfter 0x10#64 0x10220002#32 5#64 5#64 0#64 0#64 = some 0x1C#64 ∧
    pcAfter 0x10#64 0x10220002#32 0x100000005#64 5#64 0#64 0#64 = some 0x14#64 ∧
    pcAfter 0#64 0x10008000#32 0#64 0#64 0#64 0#64 = some 0xFFFFFFFFFFFE0004#64 := by decide
-- V-C8, V-C9
theorem test_bne :
    pcAfter 0x10#64 0x1420FFFD#32 1#64 0#64 0#64 0#64 = some 8#64 ∧
    pcAfter 0x10#64 0x1420FFFD#32 0#64 0#64 0#64 0#64 = some 0x14#64 := by decide
-- V-C11, V-C13, V-C14
theorem test_blez :
    pcAfter 0x10#64 0x18200004#32 0#64 0#64 0#64 0#64 = some 0x24#64 ∧
    pcAfter 0x10#64 0x18200004#32 1#64 0#64 0#64 0#64 = some 0x14#64 ∧
    pcAfter 0x10#64 0x18200004#32 0x8000000000000000#64 0#64 0#64 0#64 = some 0x24#64 := by decide
-- V-C15, V-C16, V-C18
theorem test_bgtz :
    pcAfter 0x10#64 0x1C200004#32 0#64 0#64 0#64 0#64 = some 0x14#64 ∧
    pcAfter 0x10#64 0x1C200004#32 0xFFFFFFFFFFFFFFFF#64 0#64 0#64 0#64 = some 0x14#64 ∧
    pcAfter 0x10#64 0x1C200004#32 0x7FFFFFFFFFFFFFFF#64 0#64 0#64 0#64 = some 0x24#64 := by decide
-- V-C19, V-C20, V-C22
theorem test_bgez :
    pcAfter 0x10#64 0x04210004#32 0#64 0#64 0#64 0#64 = some 0x24#64 ∧
    pcAfter 0x10#64 0x04210004#32 0xFFFFFFFFFFFFFFFF#64 0#64 0#64 0#64 = some 0x14#64 ∧
    pcAfter 0x10#64 0x04210004#32 0x80000000#64 0#64 0#64 0#64 = some 0x24#64 := by decide
-- V-C25, and the note after the tables: the region is that of the next instruction
theorem test_j :
    pcAfter 0x10#64 0x0BFFFFFF#32 0#64 0#64 0#64 0#64 = some 0xFFFFFFC#64 ∧
    jumpTarget 0x0FFFFFFC#64 0x10 = 0x10000040#64 := by decide
-- V-C26
theorem test_jal : pcAfter 0x10#64 0x0C000010#32 0#64 0#64 0#64 0#64 = some 0x40#64 := by decide
-- V-C28
theorem test_jr : pcAfter 0x10#64 0x00200008#32 0x42#64 0#64 0#64 0#64 = some 0x42#64 := by decide
-- V-C32
theorem test_jalr : pcAfter 0x10#64 0x00A02809#32 0#64 0#64 0x80#64 0#64 = some 0x80#64 := by decide
-- V-C26, V-C31: the link value, set in EX
theorem test_link :
    exResult noMask (.jal 0x10) 0#64 0#64 0#64 = some (.inl 4#64) ∧
    exResult noMask (.jalr 31 5) 0#64 0#64 0#64 = some (.inl 4#64) := by decide
-- V-C36, V-C37
theorem test_bc1eqz :
    pcAfter 0x10#64 0x45250004#32 0#64 0#64 0#64 0xFFFFFFFFFFFFFFFF#64 = some 0x14#64 ∧
    pcAfter 0x10#64 0x45250004#32 0#64 0#64 0#64 0xFFFFFFFFFFFFFFFE#64 = some 0x24#64 := by decide
-- V-C44, V-C45
theorem test_bc1nez :
    pcAfter 0x10#64 0x45A50004#32 0#64 0#64 0#64 0x3FF0000000000000#64 = some 0x14#64 ∧
    pcAfter 0x10#64 0x45A50004#32 0#64 0#64 0#64 0x8000000000000001#64 = some 0x24#64 := by decide

/-! ## Steps of the pipeline -/

-- 40_stage_hooks.md R133, cycle 1: the fetchHook decodes and advances the pc.
theorem test_first_step :
    ∃ t, step (State.reset.withFetchWord 32 0x64010005) = .next t ∧ t.pc = 4#64 ∧ t.cycle = 1 ∧
      t.runState = .running ∧ (t.slot .IF).map Entry.ins = some (some (.daddiu 1 0 5)) :=
  ⟨_, rfl, rfl, rfl, rfl, rfl⟩

-- 45_control.md R289: the fetchHook of HALT stops the fetch.
theorem test_halt_stops_fetch :
    ∃ t, step (State.reset.withFetchWord 32 0x04000000) = .next t ∧ t.pc = 4#64 ∧
      t.fetchEnable = false ∧ t.runState = .running := ⟨_, rfl, rfl, rfl, rfl⟩

-- 45_control.md R289, 60_exceptions.md R362: its writebackHook ends the run.
theorem test_halt_ends_run :
    ∃ t, step (oneSlot Cfg.allOff .MEM (entryOf .halt)) = .next t ∧ t.runState = .halted ∧
      (t.slot .WB).isSome = true := ⟨_, rfl, rfl, rfl⟩

-- Vector H1: the step after the end is rejected.
theorem test_step_after_halt :
    step { State.reset with runState := .halted } = .refused .alreadyHalted := rfl

-- 60_exceptions.md R355: a reserved word that is fetched, ROTR of table E2.
theorem test_reserved_fetch :
    ∃ t, step (State.reset.withFetchWord 32 0x00200002) = .next t ∧ t.runState = .faulted ∧
      t.pc = 0#64 ∧ (t.faultRec.map FaultRec.word) = some 0x00200002#32 ∧
      (t.faultRec.map FaultRec.code) = some 7 := ⟨_, rfl, rfl, rfl, rfl, rfl⟩

/-- `x[1]` = 7, `x[2]` = 9, `f[1]` = 1, `f[2]` = 2 and `i` done in IF. -/
def decodeState (i : Instr) : State :=
  { ((((oneSlot Cfg.allOff .IF (entryOf i)).writeX 1 7#64).writeX 2 9#64).writeF 1 1#64).writeF 2 2#64
    with fetchEnable := false }

/-- The snapshots and the claim the decodeHook leaves. -/
def decodedAs (i : Instr) : Option (Word × Word × Option RegRef × Bool) :=
  match step (decodeState i) with
  | .next t => (t.slot .ID).map (fun e => (e.a, e.b, e.dst, e.claimed))
  | _ => none

-- The table of 40_stage_hooks.md R131: sources in order, destination.
theorem test_sources :
    decodedAs (.sub 3 1 2) = some (7#64, 9#64, some (.x 3), true) ∧
    decodedAs (.sllv 3 2 1) = some (7#64, 9#64, some (.x 3), true) ∧
    decodedAs (.sd 2 0 1) = some (7#64, 9#64, none, false) ∧
    decodedAs (.sdc1 2 0 1) = some (7#64, 2#64, none, false) ∧
    decodedAs (.divD 3 1 2) = some (1#64, 2#64, some (.f 3), true) ∧
    decodedAs (.dmtc1 2 1) = some (9#64, 0#64, some (.f 1), true) ∧
    decodedAs (.add 0 1 2) = some (7#64, 9#64, none, false) :=
  ⟨rfl, rfl, rfl, rfl, rfl, rfl, rfl⟩

/-- ADD r3, r1, r2 done in EX with its result, its claim on `x[3]` held; DADDU r4, r3, r0 in IF. -/
def rawState (fwd : Bool) : State :=
  { (State.reset.setSem (.x 3) 1) with
    runState := .running, fetchEnable := false, cycle := 5
    cfg := { Cfg.allOff with fwd := fwd }
    slots :=
      { Slots.empty with
        EX := some { entryOf (.add 3 1 2) with
          dst := some (.x 3), claimed := true, res := 21#64, resValid := true, entryCycle := 3 }
        IF := some { entryOf (.daddu 4 3 0) with entryCycle := 5 } } }

-- 70_reset_and_hazards.md R400, R410: without forwarding the reader stalls in ID.
theorem test_raw_stall :
    ∃ t, step (rawState false) = .next t ∧ t.stalls.raw = 1 ∧ t.sem (.x 4) = 0 ∧
      (t.slot .ID).map Entry.done = some false := ⟨_, rfl, rfl, rfl, rfl⟩

-- 40_stage_hooks.md R124: with forwarding it reads the result in MEM.
theorem test_forwarding :
    ∃ t, step (rawState true) = .next t ∧ t.stalls.raw = 0 ∧ t.sem (.x 4) = 1 ∧
      (t.slot .ID).map Entry.a = some 21#64 := ⟨_, rfl, rfl, rfl, rfl⟩

-- 92_eei_decisions.md D11, table T1 "second writer": a writer waits, forwarding or not.
theorem test_waw_stall :
    ∃ t, step { rawState true with
        slots := { (rawState true).slots with IF := some (entryOf (.daddiu 3 0 7)) } } = .next t ∧
      t.stalls.waw = 1 ∧ t.sem (.x 3) = 1 := ⟨_, rfl, rfl, rfl⟩

-- Table T2, program P12: the port is busy in cycle 4.
theorem test_structural_stall :
    ∃ t, step { memState (.sd 0 0 0) 0#64 0#64 with
        cycle := 3, dmemBusy := .settled [4, 5] false } = .next t ∧
      t.stalls.structural = 1 ∧ t.runState = .running ∧ t.dmem = vectorBytes :=
  ⟨_, rfl, rfl, rfl, rfl⟩

-- 40_stage_hooks.md R133, cycle 5: the write-back commits and releases.
theorem test_writeback :
    ∃ t, step { rawState false with
        slots := { Slots.empty with MEM := (rawState false).slots.EX } } = .next t ∧
      t.readX 3 = 21#64 ∧ t.sem (.x 3) = 0 := ⟨_, rfl, rfl, rfl⟩

-- Vector H2: a load while RUNNING is rejected.
theorem test_load_running :
    ({ State.reset with runState := .running }).loadProgram { imem := [], dmem := [] } =
      .error .running := rfl

-- 20_memory.md R81: what the image does not mention is 0.
theorem test_load_clears :
    ∃ t, ({ State.reset with imem := [(8, 1#32)] }).loadProgram
        { imem := [(4, 2#32), (0, 3#32)], dmem := [(5, 6#8)] } = .ok t ∧
      t.imem = [(0, 3#32), (4, 2#32)] ∧ t.dmem = [(5, 6#8)] := ⟨_, rfl, rfl, rfl⟩

-- 10_state.md R57: reset keeps the memories and samples the inputs.
theorem test_reset :
    let s := { State.reset with
      runState := .faulted, cycle := 9, pc := 12#64, imem := [(0, 1#32)], cfgIn := maskDz }
    s.resetOp = { State.reset with imem := [(0, 1#32)], cfgIn := maskDz, cfg := maskDz } := rfl

-- 10_state.md R52: the snapshot of a stalled slot (vector H4), with the timestamps of R375.
theorem test_snapshot :
    ∃ t, step (rawState false) = .next t ∧
      t.snapshot.occupancy = [none,
        some { ia := 0#64, word := encode (.daddu 4 3 0), done := false, entryCycle := 5 }, none,
        some { ia := 0#64, word := encode (.add 3 1 2), done := true, entryCycle := 3 }, none] :=
  ⟨_, rfl, rfl⟩


/-! ## Witnesses: states that meet the hypotheses of the statements -/

/-- A register with no claim on it anywhere. -/
theorem free_of_reset {s : State} (hx : s.semX = State.reset.semX) (hf : s.semF = State.reset.semF)
    (l : List RegRef) : s.free l := by
  intro r _ _
  cases r <;> simp [State.sem, hx, hf, State.reset, Vector.get]

/-- The core after reset with `x[1]`, `x[2]` preset. -/
def demo (x1 x2 : Word) (c : Cfg) : State :=
  { (State.reset.writeX 1 x1).writeX 2 x2 with cfg := c }

/-- The core after reset with `f[1]`, `f[2]` preset. -/
def demoF (f1 f2 : Word) (c : Cfg) : State :=
  { (State.reset.writeF 1 f1).writeF 2 f2 with cfg := c }

theorem demo_free (x1 x2 : Word) (c : Cfg) (l : List RegRef) : (demo x1 x2 c).free l :=
  free_of_reset rfl rfl l

theorem demoF_free (f1 f2 : Word) (c : Cfg) (l : List RegRef) : (demoF f1 f2 c).free l :=
  free_of_reset rfl rfl l

/-- The signed low words of `x[1]` and `x[2]`. -/
def lows (s : State) : Int × Int :=
  (((s.readX 1).setWidth 32).toInt, ((s.readX 2).setWidth 32).toInt)

/-- The signed values of `x[1]` and `x[2]`. -/
def fulls (s : State) : Int × Int := ((s.readX 1).toInt, (s.readX 2).toInt)

theorem witness_DecodeEncodeRoundTrip :
    WellFormed (.sll 31 31 31) ∧ WellFormed (.sdc1 31 65535 31) ∧ WellFormed (.j 67108863) ∧
    decode 0xFFFFFFFF#32 = .ins (.sd 31 0xFFFF 31) := by decide

theorem witness_DecodeIsTheTable :
    decode 0x04000000#32 = .ins .halt ∧ decode 0x04000001#32 = .reserved := by decide

/-- The core about to fetch `w` at `pc`. -/
def fetchAt (pc : Word) (w : IWord) : State :=
  { State.reset with pc := pc, imem := Memory.write [] pc.toNat w }

/-- The older stages of an empty pipeline have nothing to do. -/
theorem older_stages_idle (s : State) (h : s.slots = Slots.empty) :
    loopFrom [.WB, .MEM, .EX, .ID] s.beginCycle = .next s.beginCycle := by
  obtain ⟨x, f, pc, sx, sf, sp, sl, rs, fr, cfg, ci, fe, cy, st, im, dm, pa, bu⟩ := s
  simp only at h
  subst h
  rfl

/-- In an empty pipeline every stage is done. -/
theorem done_in_empty {s : State} (h : s.slots = Slots.empty) (st : Stage) : s.doneAt st := by
  intro e he
  rw [State.slot, h] at he
  cases st <;> cases he

theorem witness_StepRunsTheDecodedInstruction_fetch :
    let s := fetchAt 4092#64 0x00221820#32
    let t := s.beginCycle
    s.runState.accepts = true ∧ loopFrom [.WB, .MEM, .EX, .ID] s.beginCycle = .next t ∧
    t.runState = .running ∧ t.doneAt .WB ∧ t.doneAt .MEM ∧ t.doneAt .EX ∧ t.doneAt .ID ∧
    t.slot .IF = none ∧ t.fetchEnable = true ∧ t.pc.toNat % 4 = 0 ∧
    t.pc.toNat + 4 ≤ t.params.imemBytes ∧ decode (t.ifetch t.pc) = .ins (.add 3 1 2) :=
  ⟨rfl, older_stages_idle _ rfl, rfl, done_in_empty rfl _, done_in_empty rfl _,
    done_in_empty rfl _, done_in_empty rfl _, rfl, rfl, rfl, by decide, rfl⟩

/-- BEQ r1, r2, +2 that stalled in IF. -/
def waitingBranch : Entry := Entry.fresh 16#64 0x10220002#32 3

theorem witness_StepRunsTheDecodedInstruction_waiting :
    let s := { State.reset with runState := .running, cycle := 3, slots := Slots.only .IF waitingBranch }
    ∃ t, s.runState.accepts = true ∧ loopFrom [.WB, .MEM, .EX, .ID] s.beginCycle = .next t ∧
    t.runState = .running ∧ t.doneAt .WB ∧ t.doneAt .MEM ∧ t.doneAt .EX ∧ t.doneAt .ID ∧
    t.slot .IF = some waitingBranch ∧ waitingBranch.done = false ∧
    decode waitingBranch.word = .ins (.beq 1 2 2) := by
  refine ⟨_, rfl, rfl, rfl, ?_, ?_, ?_, ?_, rfl, rfl, rfl⟩ <;> intro e he <;> cases he

theorem witness_LaterStagesRunTheCarriedInstruction :
    let i := Instr.add 3 1 2
    let s := oneSlot noMask .EX (entryOf i)
    let u := oneSlot noMask .MEM { entryOf (.lw 2 4 0) with done := false }
    (Stage.before .MEM = some .EX ∧ (entryOf i).ins = some i ∧ s.slot .MEM = none ∧
      s.slot .EX = some (entryOf i) ∧ (entryOf i).done = true) ∧
    (u.slot .MEM = some { entryOf (.lw 2 4 0) with done := false }) := ⟨⟨rfl, rfl, rfl, rfl, rfl⟩, rfl⟩

/-- What FetchFaults and ReservedWordFaults ask of the older stages. -/
theorem witness_FetchFaults :
    let s := fetchAt 4094#64 0#32
    let u := fetchAt 4096#64 0#32
    (s.runState.accepts = true ∧ loopFrom [.WB, .MEM, .EX, .ID] s.beginCycle = .next s.beginCycle ∧
      s.beginCycle.runState = .running ∧ (∀ st, s.beginCycle.doneAt st) ∧
      s.beginCycle.slot .IF = none ∧ s.beginCycle.fetchEnable = true ∧
      s.beginCycle.pc.toNat % 4 ≠ 0) ∧
    (u.runState.accepts = true ∧ loopFrom [.WB, .MEM, .EX, .ID] u.beginCycle = .next u.beginCycle ∧
      u.beginCycle.runState = .running ∧ (∀ st, u.beginCycle.doneAt st) ∧
      u.beginCycle.slot .IF = none ∧ u.beginCycle.fetchEnable = true ∧
      u.beginCycle.pc.toNat % 4 = 0 ∧ u.beginCycle.params.imemBytes < u.beginCycle.pc.toNat + 4) :=
  ⟨⟨rfl, older_stages_idle _ rfl, rfl, done_in_empty rfl, rfl, rfl, by decide⟩,
    ⟨rfl, older_stages_idle _ rfl, rfl, done_in_empty rfl, rfl, rfl, rfl, by decide⟩⟩

theorem witness_ReservedWordFaults :
    let s := fetchAt 4092#64 0x0000000C#32
    s.runState.accepts = true ∧ loopFrom [.WB, .MEM, .EX, .ID] s.beginCycle = .next s.beginCycle ∧
    s.beginCycle.runState = .running ∧ (∀ st, s.beginCycle.doneAt st) ∧
    s.beginCycle.slot .IF = none ∧ s.beginCycle.fetchEnable = true ∧
    s.beginCycle.pc.toNat % 4 = 0 ∧ s.beginCycle.pc.toNat + 4 ≤ s.beginCycle.params.imemBytes ∧
    decode (s.beginCycle.ifetch s.beginCycle.pc) = .reserved :=
  ⟨rfl, older_stages_idle _ rfl, rfl, done_in_empty rfl, rfl, rfl, rfl, by decide, rfl⟩

theorem witness_AddSubComplete :
    (∀ x1 x2 c, (demo x1 x2 c).free [.x 1, .x 2, .x 3]) ∧
    (let (a, b) := lows (demo 0x7FFFFFFF#64 0#64 noMask)
     a + b = 2 ^ 31 - 1 ∧ a - b = 2 ^ 31 - 1) ∧
    (let (a, b) := lows (demo 0x80000000#64 0#64 noMask)
     a + b = -2 ^ 31 ∧ a - b = -2 ^ 31) ∧
    (let (a, b) := fulls (demo 0x7FFFFFFFFFFFFFFF#64 0#64 noMask)
     a + b = 2 ^ 63 - 1 ∧ a - b = 2 ^ 63 - 1) ∧
    (let (a, b) := fulls (demo 0x8000000000000000#64 0#64 noMask)
     a + b = -2 ^ 63 ∧ a - b = -2 ^ 63) :=
  ⟨fun _ _ _ => demo_free _ _ _ _, by decide, by decide, by decide, by decide⟩

theorem witness_AddSubOverflow :
    (∀ x1 x2 c, (demo x1 x2 c).free [.x 1, .x 2, .x 3]) ∧
    (let (a, b) := lows (demo 0x7FFFFFFF#64 1#64 maskOvf)
     a + b = 2 ^ 31 ∧ (demo 0x7FFFFFFF#64 1#64 maskOvf).cfg.maskOvf = true) ∧
    (let (a, b) := lows (demo 0x80000000#64 1#64 noMask)
     a - b = -2 ^ 31 - 1 ∧ (demo 0x80000000#64 1#64 noMask).cfg.maskOvf = false) ∧
    (let (a, b) := fulls (demo 0x7FFFFFFFFFFFFFFF#64 1#64 maskOvf)
     a + b = 2 ^ 63 ∧ (demo 0x7FFFFFFFFFFFFFFF#64 1#64 maskOvf).cfg.maskOvf = true) ∧
    (let (a, b) := fulls (demo 0x8000000000000000#64 1#64 noMask)
     a - b = -2 ^ 63 - 1 ∧ (demo 0x8000000000000000#64 1#64 noMask).cfg.maskOvf = false) :=
  ⟨fun _ _ _ => demo_free _ _ _ _, by decide, by decide, by decide, by decide⟩

theorem witness_WrappingAddSubComplete : (demo 1#64 2#64 noMask).free [.x 1, .x 2, .x 3] :=
  demo_free _ _ _ _

theorem witness_LogicAndCompareComplete : (demo 1#64 2#64 noMask).free [.x 1, .x 2, .x 3] :=
  demo_free _ _ _ _

theorem witness_ConstantShiftsComplete : (demo 1#64 2#64 noMask).free [.x 2, .x 3] :=
  demo_free _ _ _ _

theorem witness_RegisterShiftsComplete : (demo 33#64 2#64 noMask).free [.x 1, .x 2, .x 3] :=
  demo_free _ _ _ _

theorem witness_ConditionalMovesComplete :
    (demo 7#64 0#64 noMask).free [.x 1, .x 2, .x 3] ∧ (demo 7#64 0#64 noMask).readX 2 = 0#64 ∧
    (demo 7#64 1#64 noMask).free [.x 1, .x 2, .x 3] ∧ (demo 7#64 1#64 noMask).readX 2 ≠ 0#64 :=
  ⟨demo_free _ _ _ _, by decide, demo_free _ _ _ _, by decide⟩

theorem witness_TrappingImmediateAdds :
    (∀ x1 x2 c, (demo x1 x2 c).free [.x 1, .x 2]) ∧
    (lows (demo 0x7FFFFFFE#64 0#64 noMask)).1 + (BitVec.ofNat 16 1).toInt = 2 ^ 31 - 1 ∧
    (lows (demo 0x7FFFFFFF#64 0#64 maskOvf)).1 + (BitVec.ofNat 16 1).toInt = 2 ^ 31 ∧
    (lows (demo 0x80000000#64 0#64 noMask)).1 + (BitVec.ofNat 16 0xFFFF).toInt = -2 ^ 31 - 1 ∧
    (fulls (demo 0x8000000000000001#64 0#64 noMask)).1 + (BitVec.ofNat 16 0xFFFF).toInt = -2 ^ 63 ∧
    (fulls (demo 0x7FFFFFFFFFFFFFFF#64 0#64 maskOvf)).1 + (BitVec.ofNat 16 1).toInt = 2 ^ 63 ∧
    (fulls (demo 0x8000000000000000#64 0#64 noMask)).1 + (BitVec.ofNat 16 0xFFFF).toInt = -2 ^ 63 - 1 ∧
    (demo 0#64 0#64 maskOvf).cfg.maskOvf = true ∧ (demo 0#64 0#64 noMask).cfg.maskOvf = false :=
  ⟨fun _ _ _ => demo_free _ _ _ _, by decide, by decide, by decide, by decide, by decide, by decide,
    rfl, rfl⟩

theorem witness_ImmediatesComplete : (demo 1#64 2#64 noMask).free [.x 1, .x 2] := demo_free _ _ _ _

theorem witness_MultipliesComplete : (demo 1#64 2#64 noMask).free [.x 1, .x 2, .x 3] :=
  demo_free _ _ _ _

-- A divisor that is zero at width 32 only meets the second clause and not the first.
theorem witness_DividesComplete :
    (demo 0x80000000#64 0xFFFFFFFF#64 noMask).free [.x 1, .x 2, .x 3] ∧
    ((demo 0x80000000#64 0xFFFFFFFF#64 noMask).readX 2).setWidth 32 ≠ 0#32 ∧
    (demo 7#64 0x100000000#64 noMask).free [.x 1, .x 2, .x 3] ∧
    (demo 7#64 0x100000000#64 noMask).readX 2 ≠ 0#64 :=
  ⟨demo_free _ _ _ _, by decide, demo_free _ _ _ _, by decide⟩

theorem witness_DivideByZero :
    (demo 7#64 0x100000000#64 maskDz).free [.x 1, .x 2, .x 3] ∧
    ((demo 7#64 0x100000000#64 maskDz).readX 2).setWidth 32 = 0#32 ∧
    (demo 7#64 0x100000000#64 maskDz).cfg.maskDz = true ∧
    (demo 7#64 0#64 noMask).free [.x 1, .x 2, .x 3] ∧ (demo 7#64 0#64 noMask).readX 2 = 0#64 ∧
    (demo 7#64 0#64 noMask).cfg.maskDz = false :=
  ⟨demo_free _ _ _ _, by decide, rfl, demo_free _ _ _ _, by decide, rfl⟩

/-- The effective address of a load or store based on `x[1]`. -/
def eaOf (s : State) (imm : Nat) : Word := s.readX 1 + (BitVec.ofNat 16 imm).signExtend 64

-- The last byte, halfword, word and doubleword of DMEM.
theorem witness_LoadsComplete :
    (∀ x1 x2 c, (demo x1 x2 c).free [.x 1] ∧ (demo x1 x2 c).free [.x 2] ∧
      (demo x1 x2 c).sem (.f 2) = 0) ∧
    (demo 0x1000#64 0#64 noMask).Accessible (eaOf (demo 0x1000#64 0#64 noMask) 0xFFFF) 1 ∧
    (demo 0x1000#64 0#64 noMask).Accessible (eaOf (demo 0x1000#64 0#64 noMask) 0xFFFE) 2 ∧
    (demo 0x1000#64 0#64 noMask).Accessible (eaOf (demo 0x1000#64 0#64 noMask) 0xFFFC) 4 ∧
    (demo 0x1000#64 0#64 noMask).Accessible (eaOf (demo 0x1000#64 0#64 noMask) 0xFFF8) 8 :=
  ⟨fun _ _ _ => ⟨demo_free _ _ _ _, demo_free _ _ _ _, rfl⟩, ⟨by decide, by decide, rfl⟩,
    ⟨by decide, by decide, rfl⟩, ⟨by decide, by decide, rfl⟩, ⟨by decide, by decide, rfl⟩⟩

theorem witness_StoresComplete :
    MemoriesCanonical (demo 0xFF8#64 5#64 noMask) ∧ (demo 0xFF8#64 5#64 noMask).free [.x 1] ∧
    (demo 0xFF8#64 5#64 noMask).free [.x 2] ∧ (demo 0xFF8#64 5#64 noMask).sem (.f 2) = 0 ∧
    (demo 0xFF8#64 5#64 noMask).Accessible (eaOf (demo 0xFF8#64 5#64 noMask) 7) 1 ∧
    (demo 0xFF8#64 5#64 noMask).Accessible (eaOf (demo 0xFF8#64 5#64 noMask) 6) 2 ∧
    (demo 0xFF8#64 5#64 noMask).Accessible (eaOf (demo 0xFF8#64 5#64 noMask) 4) 4 ∧
    (demo 0xFF8#64 5#64 noMask).Accessible (eaOf (demo 0xFF8#64 5#64 noMask) 0) 8 :=
  ⟨⟨rfl, rfl⟩, demo_free _ _ _ _, demo_free _ _ _ _, rfl, ⟨by decide, by decide, rfl⟩,
    ⟨by decide, by decide, rfl⟩, ⟨by decide, by decide, rfl⟩, ⟨by decide, by decide, rfl⟩⟩

-- Misaligned beyond DMEM; aligned one step beyond DMEM.
theorem witness_AccessFaults :
    let i := Instr.lw 2 0 1
    (∃ rt, (i = .lw rt 0 1 ∨ i = .lwu rt 0 1 ∨ i = .sw rt 0 1) ∧ (4 : Nat) = 4) ∧
    (∀ x1, (demo x1 0#64 noMask).free (idSourcesOf i) ∧
      ∀ d, claimedOf i = some d → (demo x1 0#64 noMask).sem d = 0) ∧
    (eaOf (demo 0x1001#64 0#64 noMask) 0).toNat % 4 ≠ 0 ∧
    (eaOf (demo 0x1000#64 0#64 noMask) 0).toNat % 4 = 0 ∧
    (demo 0x1000#64 0#64 noMask).params.dmemBytes < (eaOf (demo 0x1000#64 0#64 noMask) 0).toNat + 4 := by
  refine ⟨⟨2, Or.inl rfl, rfl⟩, fun x1 => ⟨demo_free _ _ _ _, ?_⟩, by decide, by decide, by decide⟩
  intro d h; cases h; rfl

theorem witness_BusyPortStalls :
    let s := { demo 0xFFC#64 0#64 noMask with dmemBusy := .settled [0] false }
    s.free (idSourcesOf (.sw 2 0 1)) ∧ (∀ d, claimedOf (.sw 2 0 1) = some d → s.sem d = 0) ∧
    (eaOf s 0).toNat % 4 = 0 ∧ (eaOf s 0).toNat + 4 ≤ s.params.dmemBytes ∧ s.portBusy = true :=
  ⟨free_of_reset rfl rfl _, (by intro d h; cases h), by decide, by decide, rfl⟩

theorem witness_BranchesComplete :
    (demo 1#64 1#64 noMask).free [.x 1, .x 2] ∧ (demo 1#64 1#64 noMask).free [.x 1] ∧
    (demo 1#64 1#64 noMask).sem (.f 2) = 0 := ⟨demo_free _ _ _ _, demo_free _ _ _ _, rfl⟩

theorem witness_JumpsComplete :
    (demo 8#64 1#64 noMask).free [.x 31] ∧ (demo 8#64 1#64 noMask).free [.x 1] ∧
    (demo 8#64 1#64 noMask).free [.x 1, .x 31] :=
  ⟨demo_free _ _ _ _, demo_free _ _ _ _, demo_free _ _ _ _⟩

theorem witness_FpMovesComplete :
    (demoF 1#64 2#64 noMask).free [.f 1, .f 3] ∧ (demoF 1#64 2#64 noMask).free [.f 1, .x 3] :=
  ⟨demoF_free _ _ _ _, demoF_free _ _ _ _⟩

-- 1/0: delivered when masked, raised when not; for each instruction a result that is delivered.
theorem witness_FpArithmeticCompletes :
    (∀ a b c, (demoF a b c).free [.f 1, .f 2, .f 3] ∧ (demoF a b c).free [.f 1, .f 3]) ∧
    (fdiv 0x3FF0000000000000#64 0#64).Delivers maskDz 0x7FF0000000000000#64 ∧
    (fdiv 0x3FF0000000000000#64 0#64).Raises noMask .divideByZero ∧
    (fadd 0#64 0#64).Delivers noMask 0#64 ∧ (fmul 0#64 0#64).Delivers noMask 0#64 ∧
    (toLong 0#64).Delivers noMask 0#64 ∧ (ofLong 0#64).Delivers noMask 0#64 :=
  ⟨fun _ _ _ => ⟨demoF_free _ _ _ _, demoF_free _ _ _ _⟩,
    Or.inr ⟨.divideByZero, by decide +kernel, rfl⟩, ⟨0x7FF0000000000000#64, by decide +kernel, rfl⟩,
    Or.inl (by decide +kernel), Or.inl (by decide +kernel), Or.inl (by decide +kernel),
    Or.inl (by decide +kernel)⟩

-- A signalling NaN, a quiet NaN, a pair for which each relation holds and one for which it fails.
theorem witness_FpComparesComplete :
    (∀ a b c, (demoF a b c).free [.f 1, .f 2, .f 3]) ∧
    IsSignallingNaN 0x7FF0000000000001#64 ∧ maskInv.maskInv = true ∧ noMask.maskInv = false ∧
    (¬IsSignallingNaN 0x7FF8000000000000#64 ∧ ¬IsSignallingNaN 0x3FF0000000000000#64 ∧
      IsNaN 0x7FF8000000000000#64) ∧
    (¬IsNaN 0x8000000000000000#64 ∧ ¬IsNaN 0#64 ∧
      signMagnitude 0x8000000000000000#64 = signMagnitude 0#64) ∧
    (¬IsNaN 0xFFF0000000000000#64 ∧
      signMagnitude 0xFFF0000000000000#64 < signMagnitude 0x3FF0000000000000#64 ∧
      ¬signMagnitude 0x3FF0000000000000#64 ≤ signMagnitude 0xFFF0000000000000#64) := by
  refine ⟨fun _ _ _ => demoF_free _ _ _ _, ?_, rfl, rfl, ?_, ?_, ?_⟩ <;>
    simp only [IsSignallingNaN, IsNaN] <;> decide

theorem realValue_zero : realValue 0#64 = 0 := by
  have h1 : expBits 0#64 = 0 := by decide
  have h2 : fracBits 0#64 = 0 := by decide
  simp [realValue, h1, h2]

theorem realValue_one : realValue 0x3FF0000000000000#64 = 1 := by
  have h1 : expBits 0x3FF0000000000000#64 = 1023 := by decide
  have h2 : fracBits 0x3FF0000000000000#64 = 0 := by decide
  have h3 : (0x3FF0000000000000#64).msb = false := by decide
  rw [realValue, h1, h2, h3, show (2 : ℚ) ^ 1075 = 2 ^ 52 * 2 ^ 1023 from by rw [← pow_add]]
  have h4 : (2 : ℚ) ^ 1023 ≠ 0 := by positivity
  simp only [Nat.cast_zero, add_zero, OfNat.ofNat_ne_zero, if_false, Bool.false_eq_true]
  rw [mul_div_mul_right _ _ h4]
  norm_num

/-- The value of a positive normal datum. -/
theorem realValue_normal {v : Word} {e f : Nat} (he : expBits v = e) (hf : fracBits v = f)
    (h0 : e ≠ 0) (hs : v.msb = false) : realValue v = (2 ^ 52 + f) * 2 ^ e / 2 ^ 1075 := by
  simp [realValue, he, hf, h0, hs]

-- 46_fpu.md R332: the largest finite datum plus 2^970, half its unit, is the smallest sum that overflows.
theorem sum_at_overflow_edge :
    realValue 0x7FEFFFFFFFFFFFFF#64 + realValue 0x7C90000000000000#64 = 2 ^ 1024 - 2 ^ 970 := by
  rw [realValue_normal (e := 2046) (f := 2 ^ 52 - 1) (by decide) (by decide) (by decide) (by decide),
    realValue_normal (e := 1993) (f := 0) (by decide) (by decide) (by decide) (by decide),
    show (2 : ℚ) ^ 2046 = 2 ^ 1075 * (2 * 2 ^ 970) by rw [← pow_succ', ← pow_add],
    show (2 : ℚ) ^ 1993 = 2 ^ 1023 * 2 ^ 970 by rw [← pow_add],
    show (2 : ℚ) ^ 1075 = 2 ^ 52 * 2 ^ 1023 by rw [← pow_add],
    show (2 : ℚ) ^ 1024 = 2 ^ 54 * 2 ^ 970 by rw [← pow_add]]
  have h : (2 : ℚ) ^ 1023 ≠ 0 := by positivity
  generalize (2 : ℚ) ^ 1023 = q at h ⊢
  generalize (2 : ℚ) ^ 970 = p
  field_simp
  norm_num
  ring

/-- The product of a datum just below 1 and one just at or above 2^-1022. -/
theorem product_near_underflow {v w : Word} {f g : Nat} (hv : expBits v = 1022) (hf : fracBits v = f)
    (hvs : v.msb = false) (hw : expBits w = 1) (hg : fracBits w = g) (hws : w.msb = false) :
    realValue v * realValue w = (2 ^ 52 + f) * (2 ^ 52 + g) / 2 ^ 105 / 2 ^ 1022 := by
  rw [realValue_normal hv hf (by decide) hvs, realValue_normal hw hg (by decide) hws,
    show (2 : ℚ) ^ 1075 = 2 ^ 53 * 2 ^ 1022 by rw [← pow_add]]
  have h : (2 : ℚ) ^ 1022 ≠ 0 := by positivity
  generalize (2 : ℚ) ^ 1022 = q at h ⊢
  field_simp

-- 46_fpu.md R333: (1 - 2^-53) * 2^-1022 is tiny, although it rounds to 2^-1022.
theorem product_below_underflow_edge :
    let r := realValue 0x3FEFFFFFFFFFFFFF#64 * realValue 0x0010000000000000#64
    0 < r ∧ r < 1 / 2 ^ 1022 - 1 / 2 ^ 1076 := by
  rw [product_near_underflow (f := 2 ^ 52 - 1) (g := 0) (by decide) (by decide) (by decide) (by decide)
      (by decide) (by decide), show (2 : ℚ) ^ 1076 = 2 ^ 54 * 2 ^ 1022 by rw [← pow_add],
    ← div_div, ← sub_div]
  exact ⟨by positivity, div_lt_div_of_pos_right (by norm_num) (by positivity)⟩

-- (1 - 2^-27) * (1 + 2^-27) * 2^-1022 is the smallest product that is not.
theorem product_at_underflow_edge :
    realValue 0x3FEFFFFFFC000000#64 * realValue 0x0010000002000000#64 = 1 / 2 ^ 1022 - 1 / 2 ^ 1076 := by
  rw [product_near_underflow (f := 2 ^ 52 - 2 ^ 26) (g := 2 ^ 25) (by decide) (by decide) (by decide)
      (by decide) (by decide) (by decide), show (2 : ℚ) ^ 1076 = 2 ^ 54 * 2 ^ 1022 by rw [← pow_add],
    ← div_div, ← sub_div]
  norm_num

-- 46_fpu.md R330, R332, R333, by hand.
theorem test_rounding_edges :
    fadd 0x7FEFFFFFFFFFFFFF#64 0x7C90000000000000#64 = .fault .overflow 0x7FF0000000000000#64 ∧
    fadd 0x7FEFFFFFFFFFFFFF#64 0x7C8FFFFFFFFFFFFF#64 = .value 0x7FEFFFFFFFFFFFFF#64 ∧
    fmul 0x3FEFFFFFFFFFFFFF#64 0x0010000000000000#64 = .fault .underflow 0x0010000000000000#64 ∧
    fmul 0x3FEFFFFFFC000000#64 0x0010000002000000#64 = .value 0x0010000000000000#64 := by
  decide +kernel

theorem realValue_minus_one : realValue 0xBFF0000000000000#64 = -1 := by
  have h1 : expBits 0xBFF0000000000000#64 = 1023 := by decide
  have h2 : fracBits 0xBFF0000000000000#64 = 0 := by decide
  have h3 : (0xBFF0000000000000#64).msb = true := by decide
  rw [realValue, h1, h2, h3, show (2 : ℚ) ^ 1075 = 2 ^ 52 * 2 ^ 1023 from by rw [← pow_add]]
  have h4 : (2 : ℚ) ^ 1023 ≠ 0 := by positivity
  simp only [Nat.cast_zero, add_zero, OfNat.ofNat_ne_zero, if_false, if_true]
  rw [mul_div_mul_right _ _ h4]
  norm_num

-- One, and operands at the overflow edge and on both sides of the underflow edge.
theorem witness_FpRoundsToNearestEven :
    (IsFinite 0x3FF0000000000000#64 ∧
      realValue 0x3FF0000000000000#64 + realValue 0x3FF0000000000000#64 ≠ 0 ∧
      realValue 0x3FF0000000000000#64 * realValue 0x3FF0000000000000#64 ≠ 0 ∧
      realValue 0x3FF0000000000000#64 ≠ 0 ∧ (1#64 : Word) ≠ 0#64) ∧
    (IsFinite 0x7FEFFFFFFFFFFFFF#64 ∧ IsFinite 0x7C90000000000000#64 ∧
      realValue 0x7FEFFFFFFFFFFFFF#64 + realValue 0x7C90000000000000#64 ≠ 0) ∧
    (IsFinite 0x3FEFFFFFFFFFFFFF#64 ∧ IsFinite 0x0010000000000000#64 ∧
      realValue 0x3FEFFFFFFFFFFFFF#64 * realValue 0x0010000000000000#64 ≠ 0) ∧
    (IsFinite 0x3FEFFFFFFC000000#64 ∧ IsFinite 0x0010000002000000#64 ∧
      realValue 0x3FEFFFFFFC000000#64 * realValue 0x0010000002000000#64 ≠ 0) := by
  have fin : ∀ {v : Word}, expBits v ≠ 2047 → IsFinite v := id
  refine ⟨⟨fin (by decide), ?_, ?_, ?_, by decide⟩, ⟨fin (by decide), fin (by decide), ?_⟩,
    ⟨fin (by decide), fin (by decide), product_below_underflow_edge.1.ne'⟩,
    ⟨fin (by decide), fin (by decide), ?_⟩⟩
  · rw [realValue_one]; norm_num
  · rw [realValue_one]; norm_num
  · rw [realValue_one]; norm_num
  · rw [sum_at_overflow_edge]
    exact (sub_pos.mpr (pow_lt_pow_right₀ (by norm_num) (by norm_num))).ne'
  · rw [product_at_underflow_edge]
    exact (sub_pos.mpr (one_div_lt_one_div_of_lt (by positivity)
      (pow_lt_pow_right₀ (by norm_num) (by norm_num)))).ne'

theorem witness_FpSpecialOperands :
    IsSignallingNaN 0xFFF0000000000001#64 ∧
    (IsNaN 0x7FF8000000000000#64 ∧ ¬IsSignallingNaN 0x7FF8000000000000#64 ∧
      ¬IsSignallingNaN 0#64) ∧
    IsInfinity 0x7FF0000000000000#64 ∧ IsInfinity 0xFFF0000000000000#64 ∧
    IsFinite 0x7FEFFFFFFFFFFFFF#64 ∧ IsFinite 0#64 ∧ IsZero 0x8000000000000000#64 ∧
    ¬IsZero 0x0000000000000001#64 ∧
    realValue 0x3FF0000000000000#64 + realValue 0xBFF0000000000000#64 = 0 := by
  refine ⟨?_, ?_, ?_, ?_, ?_, ?_, ?_, ?_, ?_⟩
  · simp only [IsSignallingNaN, IsNaN]; decide
  · simp only [IsSignallingNaN, IsNaN]; decide
  · simp only [IsInfinity]; decide
  · simp only [IsInfinity]; decide
  · unfold IsFinite; decide
  · unfold IsFinite; decide
  · simp only [IsZero]; decide
  · simp only [IsZero]; decide
  · rw [realValue_one, realValue_minus_one]; norm_num

theorem witness_FpConversions :
    IsFinite 0x43DFFFFFFFFFFFFF#64 ∧ ¬IsFinite 0x7FF0000000000000#64 ∧
    ¬IsFinite 0x7FF8000000000000#64 := by
  unfold IsFinite; decide

-- R124: the register file, a stalled semaphore, a forwarded result, a producer without one.
theorem witness_ReadSourceRule :
    (RegRef.x 3 ≠ .x 0 ∧ (rawState false).cfg.fwd = false ∧ (rawState true).cfg.fwd = true) ∧
    (∃ p, (rawState true).slot .EX = some p ∧ p.claims (.x 3) = true ∧ p.resValid = true) ∧
    (∀ p, (rawState true).slot .EX = some p → p.claims (.x 4) = false) ∧
    (∀ p, (rawState true).slot .MEM = some p → p.claims (.x 4) = false) ∧
    (let s := { rawState true with
       slots := { Slots.empty with MEM := some { entryOf (.lw 3 0 0) with
         dst := some (.x 3), claimed := true } } }
     (∀ p, s.slot .EX = some p → p.claims (.x 3) = false) ∧
     ∃ p, s.slot .MEM = some p ∧ p.claims (.x 3) = true ∧ p.resValid = false) := by
  refine ⟨⟨by decide, rfl, rfl⟩, ⟨_, rfl, rfl, rfl⟩, ?_, ?_, ?_, ⟨_, rfl, rfl, rfl⟩⟩
  · intro p h; cases h; rfl
  · intro p h; cases h
  · intro p h; cases h

/-- BEQ r3, r0, +1 in IF, its hook due, while `x[3]` is claimed in EX or free. -/
def branchDue (claimed : Nat) : State :=
  { oneSlot noMask .IF (Entry.fresh 8#64 (encode (.beq 3 0 1)) 2) with
    semX := State.reset.semX.set 3 claimed }

theorem witness_FetchHookRule :
    (branchDue 1).due = some (.IF, Entry.fresh 8#64 (encode (.beq 3 0 1)) 2) ∧
    (branchDue 1).readSources (ifSourcesOf (.beq 3 0 1)) = none ∧
    (branchDue 0).due = some (.IF, Entry.fresh 8#64 (encode (.beq 3 0 1)) 2) ∧
    (branchDue 0).readSources (ifSourcesOf (.beq 3 0 1)) = some [0#64, 0#64] :=
  ⟨rfl, rfl, rfl, rfl⟩

/-- ADD r4, r3, r1 in ID, its hook due, with given semaphores of `x[3]` and `x[4]`. -/
def addDue (n3 n4 : Nat) : State :=
  { oneSlot noMask .ID { entryOf (.add 4 3 1) with done := false } with
    semX := (State.reset.semX.set 3 n3).set 4 n4 }

theorem witness_DecodeHookRule :
    (∀ n m, (addDue n m).due = some (.ID, { entryOf (.add 4 3 1) with done := false })) ∧
    (addDue 1 0).readSources (idSourcesOf (.add 4 3 1)) = none ∧
    ((addDue 0 1).readSources (idSourcesOf (.add 4 3 1)) = some [0#64, 0#64] ∧
      claimedOf (.add 4 3 1) = some (.x 4) ∧ (addDue 0 1).sem (.x 4) ≠ 0) ∧
    ((addDue 0 0).readSources (idSourcesOf (.add 4 3 1)) = some [0#64, 0#64] ∧
      ∀ d, claimedOf (.add 4 3 1) = some d → (addDue 0 0).sem d = 0) := by
  refine ⟨fun _ _ => rfl, rfl, ⟨rfl, rfl, by decide⟩, rfl, ?_⟩
  intro d h; cases h; rfl

-- The first alternative is a result, the second DivideByZero.
theorem witness_ExecuteHookRule :
    let e := { entryOf (.div 3 1 2) with done := false, a := 7#64, b := 0#64 }
    (oneSlot noMask .EX e).cfg = noMask ∧ (oneSlot noMask .EX e).due = some (.EX, e) ∧
    Cfg.masks noMask .divideByZero = false ∧ (oneSlot maskDz .EX e).due = some (.EX, e) :=
  ⟨rfl, rfl, rfl, rfl⟩

/-- A load or store in MEM, its hook due. -/
def memDue (i : Instr) (ea : Word) (busy : Bool) : State :=
  { oneSlot noMask .MEM { entryOf i with done := false, ea := ea } with
    dmemBusy := .settled [] busy }

theorem witness_MemoryHookRule :
    (∀ i ea b, (memDue i ea b).due = some (.MEM, { entryOf i with done := false, ea := ea })) ∧
    (loadWidthOf (.add 3 1 2) = none ∧ storeWidthOf (.add 3 1 2) = none) ∧
    (loadWidthOf (.lw 2 0 1) = some 4 ∧ storeWidthOf (.sd 2 0 1) = some 8) ∧
    (0x1002#64 : Word).toNat % 4 ≠ 0 ∧
    ((0x1000#64 : Word).toNat % 4 = 0 ∧ (memDue (.lw 2 0 1) 0#64 false).params.dmemBytes <
      (0x1000#64 : Word).toNat + 4) ∧
    (memDue (.lw 2 0 1) 0xFFC#64 true).portBusy = true ∧
    (memDue (.lw 2 0 1) 0xFFC#64 false).Accessible 0xFFC#64 4 ∧
    (memDue (.lw 2 0 1) 0xFFC#64 false).loadedBy (.lw 2 0 1) 0xFFC = some 0#64 ∧
    (memDue (.sd 2 0 1) 0xFF8#64 false).Accessible 0xFF8#64 8 ∧
    MemoriesCanonical (memDue (.sd 2 0 1) 0xFF8#64 false) :=
  ⟨fun _ _ _ => rfl, ⟨rfl, rfl⟩, ⟨rfl, rfl⟩, by decide, ⟨by decide, by decide⟩, rfl,
    ⟨by decide, by decide, rfl⟩, by decide, ⟨by decide, by decide, rfl⟩, ⟨rfl, rfl⟩⟩

-- 20_memory.md R80: under any function DMEM_BUSY a load stalls in the cycles in which it is true, and
-- only in those.
theorem test_any_busy_function (k : Nat) :
    let s := { memDue (.ld 2 0 1) 8#64 false with dmemBusy := .any k, cycle := 4 }
    (Config.dmemBusy k 4 = true →
      exec (.ld 2 0 1) s = .next { s with stalls := { raw := 0, waw := 0, structural := 1 } }) ∧
    (Config.dmemBusy k 4 = false →
      ∃ t, exec (.ld 2 0 1) s = .next t ∧ t.stalls = s.stalls ∧
        (t.slot .MEM).map Entry.done = some true) := by
  intro s
  let e : Entry := { entryOf (.ld 2 0 1) with done := false, ea := 8#64 }
  let loaded : State := s.completeAt .MEM
    { e with res := LoadExt.zero.extend 8 (s.memRead 8#64 8), resValid := true }
  have run : exec (.ld 2 0 1) s = .next (withAccess 8 e s loaded) := rfl
  have port : s.checkAccess 8#64 8 = if Config.dmemBusy k 4 then .busy else .ok := rfl
  refine ⟨fun h => ?_, fun h => ⟨loaded, ?_, rfl, rfl⟩⟩ <;> rw [h] at port <;>
    rw [run, withAccess_of_check (e := e) port]
  · rfl
  · rfl

/-- ADD r3, r1, r2 in WB with its claim, its hook due. -/
def retiring : State :=
  { (oneSlot noMask .WB { entryOf (.add 3 1 2) with
      done := false, dst := some (.x 3), claimed := true, res := 21#64 }).setSem (.x 3) 1 with
    pc := 8#64 }

theorem witness_WritebackHookRule :
    (∃ e, retiring.due = some (.WB, e) ∧ e.claimed = true ∧ e.dst = some (.x 3)) ∧
    (∃ e, (oneSlot noMask .WB { entryOf .halt with done := false }).due = some (.WB, e) ∧
      e.claimed = false) := ⟨⟨_, rfl, rfl, rfl⟩, ⟨_, rfl, rfl⟩⟩

theorem witness_RegistersChangeInWritebackOnly :
    (∃ t, exec (.beq 3 0 1) (branchDue 0) = .next t) ∧
    ∀ e, (branchDue 0).due ≠ some (.WB, e) := by
  refine ⟨⟨_, rfl⟩, ?_⟩
  intro e h
  cases h

-- A store that is performed, one whose address is beyond DMEM, and a hook that is no memoryHook.
theorem witness_MemoryChangesByStoresOnly :
    (∃ t, exec (.sb 2 0 1) (memDue (.sb 2 0 1) 0xFFF#64 false) = .next t) ∧
    (∃ e, (memDue (.sb 2 0 1) 0xFFF#64 false).due = some (.MEM, e) ∧ e.ea = 0xFFF#64) ∧
    storeWidthOf (.sb 2 0 1) = some 1 ∧
    (∃ t, exec (.sb 2 0 1) (memDue (.sb 2 0 1) 0x1000#64 false) = .next t) ∧
    ¬(memDue (.sb 2 0 1) 0x1000#64 false).Accessible 0x1000#64 1 ∧
    (∃ t, exec (.beq 3 0 1) (branchDue 0) = .next t) ∧ storeWidthOf (.beq 3 0 1) = none ∧
    ∀ e, (branchDue 0).due ≠ some (.MEM, e) := by
  refine ⟨⟨_, rfl⟩, ⟨_, rfl, rfl⟩, rfl, ⟨_, rfl⟩, ?_, ⟨_, rfl⟩, rfl, ?_⟩
  · intro h
    exact absurd h.inRange (by decide)
  · intro e h
    cases h

theorem witness_InstructionsLeaveControlState :
    ∃ t, exec (.add 3 1 2) retiring = .next t := ⟨_, rfl⟩

-- A stall, and a fault.
theorem witness_StallsAndFaultsAreAtomic :
    (∃ t, exec (.beq 3 0 1) (branchDue 1) = .next t ∧ t.stalls ≠ (branchDue 1).stalls) ∧
    (∃ t, exec (.lw 2 0 1) (memDue (.lw 2 0 1) 2#64 false) = .next t ∧
      (memDue (.lw 2 0 1) 2#64 false).runState ≠ .faulted ∧ t.runState = .faulted) :=
  ⟨⟨_, rfl, by decide⟩, ⟨_, rfl, by decide, rfl⟩⟩

theorem witness_StepRejectedExactlyAfterTheEnd :
    ({ State.reset with runState := .faulted }).runState = .faulted ∧
    ({ State.reset with runState := .halted }).runState = .halted := ⟨rfl, rfl⟩

theorem witness_StepCountsOneCycle : ∃ t, step retiring = .next t := ⟨_, rfl⟩

-- A step that stalls and one that does not.
theorem witness_AtMostOneStallPerStep :
    (∃ t, step (rawState false) = .next t ∧ t.stalls ≠ (rawState false).stalls) ∧
    (∃ t, step (rawState true) = .next t ∧ t.stalls = (rawState true).stalls) :=
  ⟨⟨_, rfl, by decide⟩, ⟨_, rfl, by decide⟩⟩

theorem witness_LoneInstructionAdvances :
    let s := oneSlot noMask .EX (entryOf (.add 3 1 2))
    s.runState = .running ∧ s.fetchEnable = false ∧ Stage.before .MEM = some .EX ∧
    s.slots = Slots.empty.set .EX (some (entryOf (.add 3 1 2))) ∧
    (entryOf (.add 3 1 2)).done = true ∧ (entryOf (.add 3 1 2)).ins = some (.add 3 1 2) :=
  ⟨rfl, rfl, rfl, rfl, rfl, rfl⟩

/-- A running core with ADD r3, r1, r2 in EX, its claim held, and DADDU r4, r3, r0 fetched behind it. -/
def inFlight : State :=
  { rawState true with fetchEnable := true, imem := [(0, 0x04000000#32)], dmem := [(4095, 1#8)] }

/-- The two entries of `inFlight`. -/
theorem inFlight_slots {st : Stage} {e : Entry} (h : inFlight.slot st = some e) :
    (st = .EX ∧ e = { entryOf (.add 3 1 2) with
      dst := some (.x 3), claimed := true, res := 21#64, resValid := true, entryCycle := 3 }) ∨
    (st = .IF ∧ e = { entryOf (.daddu 4 3 0) with entryCycle := 5 }) := by
  cases st <;> cases h
  · exact Or.inr ⟨rfl, rfl⟩
  · exact Or.inl ⟨rfl, rfl⟩

theorem witness_StepKeepsSemaphores : SemInv inFlight ∧ ∃ t, step inFlight = .next t := by
  refine ⟨⟨?_, ?_, rfl, rfl, ?_, ?_, ?_, ?_⟩, ⟨_, rfl⟩⟩
  · intro r; cases r with
    | x i => revert i; decide
    | f i => revert i; decide
  · intro r; cases r with
    | x i => revert i; decide
    | f i => revert i; decide
  · intro e h; cases h; rfl
  · intro e h; cases h
  · intro e h; cases h
  · intro st e h _
    rcases inFlight_slots h with ⟨_, rfl⟩ | ⟨_, rfl⟩
    · exact ⟨.x 3, rfl, by decide⟩
    · contradiction

theorem witness_StepKeepsSlots :
    (EntriesDecoded inFlight ∧ SlotsRegular inFlight ∧ InProgramOrder inFlight) ∧
    ∃ t, step inFlight = .next t := by
  refine ⟨⟨?_, ⟨?_, ?_, ?_⟩, ?_, ?_⟩, ⟨_, rfl⟩⟩
  · intro st e h _
    rcases inFlight_slots h with ⟨_, rfl⟩ | ⟨_, rfl⟩
    · exact ⟨.add 3 1 2, rfl, rfl⟩
    · exact ⟨.daddu 4 3 0, rfl, rfl⟩
  · intro _ e h; rcases inFlight_slots h with ⟨_, rfl⟩ | ⟨_, rfl⟩ <;> rfl
  · intro _ e h; rcases inFlight_slots h with ⟨_, rfl⟩ | ⟨_, rfl⟩ <;> rfl
  · intro st p e _ h hd
    rcases inFlight_slots h with ⟨_, rfl⟩ | ⟨_, rfl⟩ <;> cases hd
  · intro st y hy e k he hk
    rcases inFlight_slots he with ⟨rfl, rfl⟩ | ⟨rfl, rfl⟩ <;>
      rcases inFlight_slots hk with ⟨rfl, rfl⟩ | ⟨rfl, rfl⟩ <;> first
      | (simp [Stage.younger] at hy; done)
      | decide
  · intro st e h; rcases inFlight_slots h with ⟨_, rfl⟩ | ⟨_, rfl⟩ <;> decide

/-- A run that has halted: its HALT in WB and nothing else. -/
def haltedState : State :=
  { oneSlot noMask .WB { entryOf .halt with done := false } with
    runState := .halted, cycle := 5, pc := 4#64 }

/-- HALT in MEM. -/
def haltComing : State := { oneSlot noMask .MEM (entryOf .halt) with pc := 4#64 }

/-- An entry alone. -/
theorem alone_slot {s : State} {q : Stage} {k : Entry} (hs : s.slots = Slots.only q k) {st : Stage}
    {e : Entry} (h : s.slot st = some e) : st = q ∧ e = k := by
  rw [State.slot, hs] at h
  cases q <;> cases st <;> cases h <;> exact ⟨rfl, rfl⟩

theorem haltComing_slot {st : Stage} {e : Entry} (h : haltComing.slot st = some e) :
    st = .MEM ∧ e = entryOf .halt := alone_slot (s := haltComing) (q := .MEM) (k := entryOf .halt) rfl h

theorem haltedState_slot {st : Stage} {e : Entry} (h : haltedState.slot st = some e) :
    st = .WB ∧ e = { entryOf .halt with done := false } :=
  alone_slot (s := haltedState) (q := .WB) (k := { entryOf .halt with done := false }) rfl h

theorem witness_StepKeepsHaltLast :
    EntriesDecoded haltComing ∧ HaltLast haltComing ∧ ∃ t, step haltComing = .next t := by
  refine ⟨?_, ⟨?_, ?_, ?_⟩, ⟨_, rfl⟩⟩
  · intro st e h _
    obtain ⟨_, rfl⟩ := haltComing_slot h
    exact ⟨.halt, rfl, rfl⟩
  · intro st e _ _; rfl
  · intro st e y h _ hy
    obtain ⟨rfl, _⟩ := haltComing_slot h
    cases y <;> first | rfl | simp [Stage.younger] at hy
  · intro h; cases h

-- A step that faults: LW at the odd address 2 moves into MEM.
theorem witness_StepKeepsFaultRecord :
    let s := oneSlot noMask .EX { entryOf (.lw 2 2 0) with ea := 2#64 }
    FaultRecorded s ∧ ∃ t, step s = .next t ∧ t.runState = .faulted := by
  refine ⟨⟨?_, ?_⟩, ⟨_, rfl, rfl⟩⟩
  · constructor <;> intro h <;> cases h
  · intro r h; cases h

theorem witness_StepKeepsMemories :
    (MemoriesCanonical inFlight ∧ MemoriesInRange inFlight) ∧ ∃ t, step inFlight = .next t := by
  refine ⟨⟨⟨rfl, rfl⟩, ?_, ?_⟩, ⟨_, rfl⟩⟩
  · intro c hc
    obtain rfl : c = (0, 0x04000000#32) := by simpa [inFlight] using hc
    decide
  · intro c hc
    obtain rfl : c = (4095, 1#8) := by simpa [inFlight] using hc
    decide

/-- The core after reset with HALT at address 0. -/
def haltProgram : State := State.reset.withFetchWord 32 0x04000000

-- 45_control.md R289: HALT alone reaches HALTED in cycle 5.
theorem witness_HaltingRunCycles :
    haltProgram.runState = .ready ∧ haltProgram.slots = Slots.empty ∧ haltProgram.fetchEnable = true ∧
    haltProgram.cycle = 0 ∧ haltProgram.stalls = { raw := 0, waw := 0, structural := 0 } ∧
    ∃ t, Steps haltProgram t 1 ∧ t.runState = .halted ∧ t.cycle = 5 := by
  refine ⟨rfl, rfl, rfl, rfl, rfl, ?_⟩
  have h1 := Steps.more (s := haltProgram) .start rfl
  have h2 := h1.more rfl
  have h3 := h2.more rfl
  have h4 := h3.more rfl
  exact ⟨_, h4.more rfl, rfl, rfl⟩

/-- A state in the middle of a run has the whole invariant. -/
theorem inFlight_inv : Inv inFlight where
  memories := witness_StepKeepsMemories.1.1
  ranges := witness_StepKeepsMemories.1.2
  semaphores := witness_StepKeepsSemaphores.1
  decoded := witness_StepKeepsSlots.1.1
  regular := witness_StepKeepsSlots.1.2.1
  ordered := witness_StepKeepsSlots.1.2.2
  halt := by
    refine ⟨?_, ?_, ?_⟩
    · intro st e h hh; rcases inFlight_slots h with ⟨_, rfl⟩ | ⟨_, rfl⟩ <;> cases hh
    · intro st e y h hh; rcases inFlight_slots h with ⟨_, rfl⟩ | ⟨_, rfl⟩ <;> cases hh
    · intro h; cases h
  fault := by
    refine ⟨?_, ?_⟩
    · constructor <;> intro h <;> cases h
    · intro r h; cases h

theorem witness_StepKeepsInv : Inv inFlight ∧ ∃ t, step inFlight = .next t := ⟨inFlight_inv, ⟨_, rfl⟩⟩

theorem witness_StallOrFetch :
    Inv inFlight ∧ ∃ t, step inFlight = .next t ∧ inFlight.fetchEnable = true ∧
      t.stalls = inFlight.stalls ∧ t.runState = .running := ⟨inFlight_inv, ⟨_, rfl, rfl, rfl, rfl⟩⟩

theorem witness_AcceptedStepsComplete :
    Inv inFlight ∧ inFlight.runState = .running := ⟨inFlight_inv, rfl⟩

theorem witness_HaltedIsDrained : Inv haltedState ∧ haltedState.runState = .halted := by
  refine ⟨⟨⟨rfl, rfl⟩, ⟨?_, ?_⟩, ⟨?_, ?_, rfl, rfl, ?_, ?_, ?_, ?_⟩, ?_, ⟨?_, ?_, ?_⟩, ⟨?_, ?_⟩,
    ⟨?_, ?_, ?_⟩, ⟨?_, ?_⟩⟩, rfl⟩
  · intro c hc; cases hc
  · intro c hc; cases hc
  · intro r; cases r with
    | x i => revert i; decide
    | f i => revert i; decide
  · intro r; cases r with
    | x i => revert i; decide
    | f i => revert i; decide
  · intro e h; cases h
  · intro e h; cases h; rfl
  · intro e h; cases h
  · intro st e h hc
    obtain ⟨_, rfl⟩ := haltedState_slot h
    cases hc
  · intro st e h _
    obtain ⟨_, rfl⟩ := haltedState_slot h
    exact ⟨.halt, rfl, rfl⟩
  · intro h; cases h
  · intro h; cases h
  · intro st p e hb h _
    obtain ⟨rfl, _⟩ := haltedState_slot h
    cases hb; rfl
  · intro st y hy e k he hk
    obtain ⟨rfl, _⟩ := haltedState_slot he
    obtain ⟨rfl, _⟩ := haltedState_slot hk
    simp [Stage.younger] at hy
  · intro st e h
    obtain ⟨_, rfl⟩ := haltedState_slot h
    decide
  · intro st e _ _; rfl
  · intro st e y h _ hy
    obtain ⟨rfl, _⟩ := haltedState_slot h
    cases y <;> first | rfl | simp [Stage.younger] at hy
  · intro _; exact ⟨_, rfl, rfl⟩
  · constructor <;> intro h <;> cases h
  · intro r h; cases h

/-- HALT at the last word of IMEM and a byte at the last address of DMEM. -/
def edgeImage : Image := { imem := [(4092, 0x04000000#32), (0, 0x64010005#32)], dmem := [(4095, 7#8)] }

theorem witness_ResetAndLoadGiveInv :
    MemoriesCanonical inFlight ∧ MemoriesInRange inFlight ∧ Inv haltedState ∧
    ∃ t, haltedState.loadProgram edgeImage = .ok t :=
  ⟨witness_StepKeepsMemories.1.1, witness_StepKeepsMemories.1.2, witness_HaltedIsDrained.1, ⟨_, rfl⟩⟩

theorem witness_LoadProgramRule :
    inFlight.runState = .running ∧
    (haltedState.runState ≠ .running ∧ edgeImage.fits haltedState.params = true ∧
      (edgeImage.imem.map Prod.fst).Nodup ∧ (edgeImage.dmem.map Prod.fst).Nodup) ∧
    ({ imem := [(4096, 1#32)], dmem := [] } : Image).fits haltedState.params = false ∧
    ({ imem := [(2, 1#32)], dmem := [] } : Image).fits haltedState.params = false ∧
    ({ imem := [], dmem := [(4096, 1#8)] } : Image).fits haltedState.params = false := by
  refine ⟨rfl, ⟨by decide, rfl, by decide, by decide⟩, rfl, rfl, rfl⟩

theorem witness_FirstStepAfterReset :
    ∃ t, inFlight.resetOp.loadProgram edgeImage = .ok t ∧ 4 ≤ t.params.imemBytes ∧
      decode (Memory.read t.imem 0) = .ins (.daddiu 1 0 5) := ⟨_, rfl, by decide, rfl⟩

/-! ## The signal-level view (10_state.md R54) -/

/-- No request. -/
def quietPins : Pins :=
  { rst := false, stepEn := false, cfg := noMask, dmemBusy := false, ldEn := false, ldSel := false,
    ldAddr := 0#64, ldData := 0#64 }

-- A word loaded at the port is fetched at the next edge with step_en.
theorem test_clock_edges :
    let s := State.reset.clockEdge { quietPins with ldEn := true, ldData := 0x64010005#64 }
    let t := s.clockEdge { quietPins with stepEn := true }
    s.imem = [(0, 0x64010005#32)] ∧ t.pc = 4#64 ∧ t.cycle = 1 ∧
    (t.outputs false true).errLoad = true := ⟨rfl, rfl, rfl, rfl⟩

/-! ## The fixed names -/

theorem test_core : Sys2Proof.core.reset = State.reset := rfl

end Sys2Proof.Tests
end

section
/-!
SUPPORT. What a hook does, beside what Laws/Hooks.lean says: the hook behind a next state of an
instruction (`exec_next`), the fetchHook written out, the three ways a hook ends (`hookAt_outcome`), and
what it does to the semaphores and the claim of its entry (`hookAt_claim`).
-/

namespace Sys2Proof.Machine

/-! ## The order of the stages -/

/-- How far down the pipeline a stage is: IF first. -/
def Stage.depth : Stage → Nat
  | .IF => 0
  | .ID => 1
  | .EX => 2
  | .MEM => 3
  | .WB => 4

theorem Stage.depth_inj {st o : Stage} : st = o ↔ st.depth = o.depth := by
  cases st <;> cases o <;> decide

theorem Stage.mem_younger {st y : Stage} : y ∈ st.younger ↔ y.depth < st.depth := by
  cases st <;> cases y <;> decide

theorem Stage.mem_older {st o : Stage} : o ∈ st.older ↔ st.depth < o.depth := by
  cases st <;> cases o <;> decide

theorem Stage.before_eq_some {st p : Stage} : st.before = some p ↔ st.depth = p.depth + 1 := by
  cases st <;> cases p <;> decide

/-! ## Where an instruction answers a next state -/

/-- The instruction whose hook is due answers the state that hook leaves. -/
theorem RowOf.exec_due {i : Instr} {b : Behaviour} (hb : RowOf i b) {s : State} {st : Stage}
    {e : Entry} (h : s.due = some (st, e)) : exec i s = .next (hookAt i b st e s) :=
  (hb.runs s).trans (runInstr_due h)

/-- A next state of an instruction is what the due hook of its row leaves. -/
theorem exec_next {i : Instr} {s t : State} (h : exec i s = .next t) :
    ∃ b st e, RowOf i b ∧ s.due = some (st, e) ∧ t = hookAt i b st e s := by
  obtain ⟨b, hb⟩ := exec_row i
  rw [hb.runs] at h
  obtain ⟨st, e, hd, ht⟩ := runInstr_next h
  exact ⟨b, st, e, hb, hd, ht⟩

/-! ## The fetchHook (40_stage_hooks.md R125) -/

/-- A row that transfers control is not HALT's. -/
theorem RowOf.target_some {i : Instr} {b : Behaviour} (hb : RowOf i b) {ia p : Word}
    {vs : List Word} (h : b.target ia vs = some p) : i ≠ .halt := by
  rintro rfl
  rw [hb.staysOn rfl] at h
  cases h

/-- A fetchHook whose sources are read: the entry is done and decoded, the pc is the target of a
transfer that is taken or the next address, HALT alone stops the fetch. -/
theorem RowOf.fetchHook_completes {i : Instr} {b : Behaviour} (hb : RowOf i b) {s : State}
    {vs : List Word} (h : s.readSources (ifSourcesOf i) = some vs) (e : Entry) :
    fetchHook i b e s = { s with
      slots := { s.slots with IF := some { e with ins := some i, done := true } }
      pc := (b.target e.ia vs).getD (e.ia + 4#64)
      fetchEnable := s.fetchEnable && i != .halt } := by
  rw [← hb.ifSources] at h
  rcases fetchHook_cases i b e s with ⟨hn, _⟩ | ⟨ws, p, hw, ht, hh⟩ | ⟨ws, hw, ht, hh⟩
  · rw [h] at hn; cases hn
  · rw [h] at hw; cases hw
    rw [hh, ht, bne_iff_ne.mpr (hb.target_some ht), Bool.and_true]
    rfl
  · rw [h] at hw; cases hw
    have hhalt : (!b.halts) = (i != .halt) := by rw [hb.halts]; rfl
    rw [hh, ht, hhalt]
    rfl

/-- The fetchHook of a row whose source stalls. -/
theorem RowOf.fetchHook_stalls {i : Instr} {b : Behaviour} (hb : RowOf i b) {s : State}
    (h : s.readSources (ifSourcesOf i) = none) (e : Entry) : fetchHook i b e s = s.stall .raw := by
  unfold fetchHook
  rw [hb.ifSources, h]

/-! ## How a hook ends (40_stage_hooks.md R122) -/

/-- The three ends of a hook: a stall changes one counter, a fault the run state and the record, and
a completed or halting hook neither the counters nor the record. -/
inductive HookOutcome (s u : State) : Prop
  /-- `Stall(k)` -/
  | stalled (k : Hazard) (h : u = s.stall k)
  /-- an unmasked fault -/
  | faulted (k : FaultKind) (ia addr : Word) (n : Nat) (w : IWord)
      (h : u = s.takeFault k ia addr n w)
  /-- `Normal`, `ControlTransfer` or `Halt` -/
  | ended (hs : u.stalls = s.stalls) (hf : u.faultRec = s.faultRec)
      (hr : u.runState = s.runState ∨ u.runState = .halted)

theorem hookAt_outcome (i : Instr) (b : Behaviour) (st : Stage) (e : Entry) (s : State) :
    HookOutcome s (hookAt i b st e s) := by
  cases st
  · rcases fetchHook_cases i b e s with ⟨_, h⟩ | ⟨_, _, _, _, h⟩ | ⟨_, _, _, h⟩ <;>
      simp only [hookAt, h]
    · exact .stalled _ rfl
    · exact .ended rfl rfl (Or.inl rfl)
    · exact .ended rfl rfl (Or.inl rfl)
  · rcases decodeHook_cases b e s with ⟨_, h⟩ | ⟨_, _, _, h⟩ | ⟨_, _, _, h⟩ <;>
      simp only [hookAt, h]
    · exact .stalled _ rfl
    · exact .stalled _ rfl
    · exact .ended (by simp) (by simp) (Or.inl (by simp))
  · rcases executeHook_cases b e s with ⟨_, _, _, h⟩ | ⟨_, _, h⟩ <;> simp only [hookAt, h]
    · exact .ended rfl rfl (Or.inl rfl)
    · exact .faulted _ _ _ _ _ rfl
  · rcases memoryHook_cases b e s with ⟨_, _, h⟩ | ⟨_, _, _, h⟩ | h | ⟨_, _, h⟩ <;>
      simp only [hookAt, h]
    · exact .ended rfl rfl (Or.inl rfl)
    · exact .ended rfl rfl (Or.inl rfl)
    · exact .stalled _ rfl
    · exact .faulted _ _ _ _ _ rfl
  · rcases writebackHook_cases b e s with ⟨_, h⟩ | ⟨_, h⟩ <;> simp only [hookAt, h]
    · exact .ended (by simp) (by simp) (Or.inr rfl)
    · exact .ended (by simp) (by simp) (Or.inl (by simp))

/-- The pc and the fetch flag change in a fetchHook only. -/
theorem hookAt_front (i : Instr) (b : Behaviour) {st : Stage} (e : Entry) (s : State)
    (hst : st ≠ .IF) : (hookAt i b st e s).pc = s.pc ∧
      (hookAt i b st e s).fetchEnable = s.fetchEnable := by
  cases st
  · exact absurd rfl hst
  · rcases decodeHook_cases b e s with ⟨_, h⟩ | ⟨_, _, _, h⟩ | ⟨_, _, _, h⟩ <;> simp [hookAt, h]
  · rcases executeHook_cases b e s with ⟨_, _, _, h⟩ | ⟨_, _, h⟩ <;> simp [hookAt, h]
  · rcases memoryHook_cases b e s with ⟨_, _, h⟩ | ⟨_, _, _, h⟩ | h | ⟨_, _, h⟩ <;>
      simp [hookAt, h]
  · rcases writebackHook_cases b e s with ⟨_, h⟩ | ⟨_, h⟩ <;> simp [hookAt, h]

/-- The fetch flag is cleared by the fetchHook of HALT, which never stalls, and by nothing else
(10_state.md R47). -/
theorem RowOf.hookAt_fetchEnable {i : Instr} {b : Behaviour} (hb : RowOf i b) (st : Stage)
    (e : Entry) (s : State) :
    (hookAt i b st e s).fetchEnable = if st = .IF ∧ i = .halt then false else s.fetchEnable := by
  by_cases hst : st = .IF
  · subst hst
    cases hs : s.readSources (ifSourcesOf i) with
    | none =>
      have hi : i ≠ .halt := by rintro rfl; cases hs
      simp [hookAt, hb.fetchHook_stalls hs, hi]
    | some vs =>
      rw [hookAt, hb.fetchHook_completes hs]
      by_cases hi : i = .halt <;> simp [hi]
  · simp [hst, (hookAt_front i b e s hst).2]

/-! ## Claims (10_state.md R32, 40_stage_hooks.md R126, R129) -/

theorem Entry.claims_iff {e : Entry} {r : RegRef} :
    e.claims r = true ↔ e.claimed = true ∧ e.dst = some r := by
  unfold Entry.claims
  rw [Bool.and_eq_true, beq_iff_eq]

theorem Entry.claims_unclaimed {e : Entry} (h : e.claimed = false) (r : RegRef) :
    e.claims r = false := by
  unfold Entry.claims
  rw [h, Bool.false_and]

theorem effectiveDst_ne_zero (d : Option RegRef) : effectiveDst d ≠ some (.x 0) := by
  unfold effectiveDst
  split
  · simp
  · split
    · simp
    · simpa using ‹¬_›

/-- Committing an entry takes its claim off the semaphore. -/
theorem State.sem_commit (s : State) (e : Entry) (r : RegRef) :
    (s.commit e).sem r = s.sem r - if e.claims r then 1 else 0 := by
  by_cases h : ∃ d, e.claimed = true ∧ e.dst = some d
  · obtain ⟨d, hc, hd⟩ := h
    rw [s.commit_claimed hc hd, State.sem_release,
      State.sem_congr (t := s) (by simp) (by simp) r]
    simp only [Entry.claims, hc, hd, Bool.true_and, beq_iff_eq, Option.some.injEq]
    split <;> rfl
  · have hn : e.claims r = false := by
      rw [← Bool.not_eq_true, Entry.claims_iff]
      exact fun hr => h ⟨r, hr⟩
    have hs : s.commit e = s := by
      unfold State.commit
      split
      · exact absurd ⟨_, ‹_›, ‹_›⟩ h
      · rfl
    simp [hs, hn]

/-- What a hook does to the semaphores and the claim of its entry. -/
inductive ClaimAfter (st : Stage) (e : Entry) (s u : State) : Prop
  /-- a hook that neither claims nor releases -/
  | kept (k : Entry) (h : u.slot st = some k) (hst : st ≠ .WB) (hc : k.claimed = e.claimed)
      (hd : k.dst = e.dst) (hs : ∀ r, u.sem r = s.sem r)
  /-- a completed decodeHook -/
  | claimed (k : Entry) (h : u.slot st = some k) (hst : st = .ID) (hk : k.done = true)
      (hc : k.claimed = k.dst.isSome) (hd : k.dst ≠ some (.x 0))
      (hfree : ∀ r, k.dst = some r → s.sem r = 0)
      (hs : ∀ r, u.sem r = s.sem r + if k.dst = some r then 1 else 0)
  /-- a writebackHook -/
  | released (k : Entry) (h : u.slot st = some k) (hst : st = .WB) (hc : k.claimed = false)
      (hs : ∀ r, u.sem r = s.sem r - if e.claims r then 1 else 0)

/-- Committing and claiming concern one semaphore; every other update leaves both banks alone. -/
theorem hookAt_claim {s : State} {st : Stage} {e : Entry} (i : Instr) (b : Behaviour)
    (h : s.slot st = some e) : ClaimAfter st e s (hookAt i b st e s) := by
  cases st
  · rcases fetchHook_cases i b e s with ⟨_, hh⟩ | ⟨_, _, _, _, hh⟩ | ⟨_, _, _, hh⟩ <;>
      simp only [hookAt, hh]
    · exact .kept e h (by simp) rfl rfl fun r => State.sem_congr rfl rfl r
    · exact .kept { e with ins := some i, done := true } rfl (by simp) rfl rfl
        fun r => State.sem_congr rfl rfl r
    · exact .kept { e with ins := some i, done := true } rfl (by simp) rfl rfl
        fun r => State.sem_congr rfl rfl r
  · rcases decodeHook_cases b e s with ⟨_, hh⟩ | ⟨_, _, _, hh⟩ | ⟨vs, _, hw, hh⟩ <;>
      simp only [hookAt, hh]
    · exact .kept e h (by simp) rfl rfl fun r => State.sem_congr rfl rfl r
    · exact .kept e h (by simp) rfl rfl fun r => State.sem_congr rfl rfl r
    · refine .claimed { latch b vs s e with
          dst := effectiveDst b.dst, claimed := (effectiveDst b.dst).isSome, done := true }
        rfl rfl rfl rfl (effectiveDst_ne_zero _) ?_ ?_
      · intro r hr
        change effectiveDst b.dst = some r at hr
        rw [hr] at hw
        simpa [State.wawBusy] using hw
      · intro r
        rw [State.sem_congr (t := s.claimDst (effectiveDst b.dst)) (by simp) (by simp)]
        cases effectiveDst b.dst with
        | none => rfl
        | some d =>
          rw [State.claimDst, State.sem_claim]
          simp only [Option.some.injEq]
          split <;> rfl
  · rcases executeHook_cases b e s with ⟨r, v, a, hh⟩ | ⟨_, _, hh⟩ <;> simp only [hookAt, hh]
    · exact .kept { e with res := r, resValid := v, ea := a, done := true } rfl (by simp) rfl rfl
        fun r => State.sem_congr rfl rfl r
    · exact .kept e h (by simp) rfl rfl fun r => State.sem_congr rfl rfl r
  · rcases memoryHook_cases b e s with ⟨r, v, hh⟩ | ⟨_, _, _, hh⟩ | hh | ⟨_, _, hh⟩ <;>
      simp only [hookAt, hh]
    · exact .kept { e with res := r, resValid := v, done := true } rfl (by simp) rfl rfl
        fun r => State.sem_congr rfl rfl r
    · exact .kept { e with done := true } rfl (by simp) rfl rfl fun r => State.sem_congr rfl rfl r
    · exact .kept e h (by simp) rfl rfl fun r => State.sem_congr rfl rfl r
    · exact .kept e h (by simp) rfl rfl fun r => State.sem_congr rfl rfl r
  · rcases writebackHook_cases b e s with ⟨_, hh⟩ | ⟨_, hh⟩ <;> simp only [hookAt, hh]
    · refine .released { e with claimed := false } rfl rfl rfl fun r => ?_
      rw [← s.sem_commit e r]
      exact State.sem_congr rfl rfl r
    · refine .released { e with claimed := false, done := true } rfl rfl rfl fun r => ?_
      rw [← s.sem_commit e r]
      exact State.sem_congr rfl rfl r

end Sys2Proof.Machine
end

section
/-!
SUPPORT. One turn of the step loop and the whole step: what a turn leaves alone, where the entries of a
turn stand, and an induction over a step that knows a turn is followed by another one only where it
goes on (70_reset_and_hazards.md R397, R399).
-/

namespace Sys2Proof.Machine

/-! ## What a turn leaves alone -/

/-- The fields that only `reset()`, a load or the start of a cycle writes are the same. -/
structure SameControl (s u : State) : Prop where
  cfg : u.cfg = s.cfg
  cfgIn : u.cfgIn = s.cfgIn
  params : u.params = s.params
  dmemBusy : u.dmemBusy = s.dmemBusy
  imem : u.imem = s.imem
  cycle : u.cycle = s.cycle
  semPc : u.semPc = s.semPc

theorem SameControl.trans {s t u : State} (h : SameControl s t) (k : SameControl t u) :
    SameControl s u :=
  ⟨k.cfg.trans h.cfg, k.cfgIn.trans h.cfgIn, k.params.trans h.params, k.dmemBusy.trans h.dmemBusy,
    k.imem.trans h.imem, k.cycle.trans h.cycle, k.semPc.trans h.semPc⟩

theorem SameControl.of_enter {st : Stage} {s t : State} {e : Entry} (h : enter st s = .hook t e) :
    SameControl s t := by
  rw [entered_state h]
  exact ⟨rfl, rfl, rfl, rfl, rfl, rfl, rfl⟩

theorem SameControl.of_hook (i : Instr) (b : Behaviour) (st : Stage) (e : Entry) (s : State) :
    SameControl s (hookAt i b st e s) := by
  obtain ⟨hcfg, hin, hp, hbusy, himem, hcyc, hpc⟩ := hookAt_constant i b st e s
  exact ⟨hcfg, hin, hp, hbusy, himem, hcyc, hpc⟩

/-- The fields that hooks write are the same, the slots apart. -/
structure OnlySlotsDiffer (s t : State) : Prop where
  pc : t.pc = s.pc
  fetchEnable : t.fetchEnable = s.fetchEnable
  runState : t.runState = s.runState
  faultRec : t.faultRec = s.faultRec
  stalls : t.stalls = s.stalls
  dmem : t.dmem = s.dmem
  sem : ∀ r, t.sem r = s.sem r

theorem OnlySlotsDiffer.of_enter {st : Stage} {s t : State} {e : Entry}
    (h : enter st s = .hook t e) : OnlySlotsDiffer s t := by
  rw [entered_state h]
  exact ⟨rfl, rfl, rfl, rfl, rfl, rfl, fun r => State.sem_congr rfl rfl r⟩

/-- A claim `P` that faults keep, that an entry coming into its stage keeps, and that every hook keeps,
is kept by a turn. -/
theorem turn_keeps {P : State → Prop} {st : Stage} {s u : State} (hr : Reached st s) (hs : P s)
    (h : runStage st s = .next u)
    (hfault : ∀ t k ia addr n w, P t → P (t.takeFault k ia addr n w))
    (henter : ∀ t e, enter st s = .hook t e → P t)
    (hhook : ∀ t e i b, t.runState = .running → P t → t.slot st = some e → e.done = false →
      entryInstr st e = some i → RowOf i b → P (hookAt i b st e t)) : P u := by
  rcases runStage_cases h hr.2 with ⟨rfl, _⟩ | ⟨_, _, _, _, rfl⟩ | ⟨t, e, _, ht, _, rfl⟩ |
      ⟨t, e, i, b, ht, hins, hb, he, hd, _, rfl⟩
  · exact hs
  · exact hfault _ _ _ _ _ _ hs
  · exact hfault _ _ _ _ _ _ (henter t e ht)
  · have hrun := (OnlySlotsDiffer.of_enter ht).runState.trans hr.1
    exact hhook t e i b hrun (henter t e ht) he hd hins hb

/-- No turn writes the fields of `SameControl`. -/
theorem SameControl.of_turn {st : Stage} {s u : State} (hr : Reached st s)
    (h : runStage st s = .next u) : SameControl s u :=
  turn_keeps (P := SameControl s) hr ⟨rfl, rfl, rfl, rfl, rfl, rfl, rfl⟩ h
    (fun _ _ _ _ _ _ hp => hp.trans ⟨rfl, rfl, rfl, rfl, rfl, rfl, rfl⟩)
    (fun _ _ ht => .of_enter ht)
    (fun t e i b _ hp _ _ _ _ => hp.trans (.of_hook i b st e t))

/-! ## Where the entries of a turn stand -/

/-- The start of a cycle brings no entry anywhere. -/
theorem beginCycle_slot {s : State} {st : Stage} {e : Entry} (h : s.beginCycle.slot st = some e) :
    s.slot st = some e := by
  cases st
  case WB => cases h
  all_goals exact h

theorem beginCycle_slot_none {s : State} {st : Stage} (h : s.slot st = none) :
    s.beginCycle.slot st = none := by
  cases st
  case WB => rfl
  all_goals exact h

/-- The entry whose hook runs stands in its stage. -/
theorem EntryOrigin.slot_here {st : Stage} {s t : State} {e : Entry} (h : EntryOrigin st s t e) :
    t.slot st = some e := by
  cases h with
  | fetched _ _ _ _ hs => simp [hs]
  | waiting h0 _ hs => exact hs ▸ h0
  | moved _ _ _ _ _ _ _ hs => simp [hs]

/-- In another stage there is what was there, or nothing any more. -/
theorem EntryOrigin.slot_other {st o : Stage} {s t : State} {e : Entry} (h : EntryOrigin st s t e)
    (ho : o ≠ st) : t.slot o = s.slot o ∨ t.slot o = none := by
  cases h with
  | fetched _ _ _ _ hs => simp [hs, ho]
  | waiting _ _ hs => simp [hs]
  | moved p _ _ _ _ _ _ hs =>
    rw [hs, if_neg ho]
    split
    · exact Or.inr rfl
    · exact Or.inl rfl

/-- What stands in another stage stood there before. -/
theorem EntryOrigin.slot_other_some {st o : Stage} {s t : State} {e k : Entry}
    (h : EntryOrigin st s t e) (ho : o ≠ st) (hk : t.slot o = some k) : s.slot o = some k := by
  rcases h.slot_other ho with h' | h' <;> rw [h'] at hk
  · exact hk
  · cases hk

/-- A stage that was empty stays so, but for the one whose hook runs. -/
theorem EntryOrigin.slot_other_none {st o : Stage} {s t : State} {e : Entry}
    (h : EntryOrigin st s t e) (ho : o ≠ st) (hk : s.slot o = none) : t.slot o = none := by
  rcases h.slot_other ho with h' | h'
  · exact h'.trans hk
  · exact h'

/-- An entry whose hook runs is not done. -/
theorem EntryOrigin.undone {st : Stage} {s t : State} {e : Entry} (h : EntryOrigin st s t e) :
    e.done = false := by
  cases h with
  | fetched _ _ _ he _ => subst he; rfl
  | waiting _ hd _ => exact hd
  | moved _ _ _ _ _ _ he _ => subst he; rfl

/-! ## An induction that follows the order of the turns -/

section
variable {P Q : State → Prop}
  (hgo : ∀ st t u, st ≠ .IF → Reached st t → P t → runStage st t = .next u →
    goesOn st u = true → P u)
  (hend : ∀ st t u, Reached st t → P t → runStage st t = .next u →
    st = .IF ∨ goesOn st u = false → Q u)
include hgo hend

/-- The loop from a stage on, given the loop from the stage before it. -/
theorem loopFrom_induct_before {st p : Stage} (hp : st.before = some p)
    (ih : ∀ t u, Reached p t → P t → loopFrom (p :: p.younger) t = .next u → Q u) {t u : State}
    (hr : Reached st t) (hP : P t) (h : loopFrom (st :: p :: p.younger) t = .next u) : Q u := by
  have hst : st ≠ .IF := by rintro rfl; cases hp
  obtain ⟨v, hv, ⟨hg, h⟩ | ⟨hg, rfl⟩⟩ := loop_turn h
  · obtain ⟨hrun, hset, hold⟩ := settled_after hr hv hg
    refine ih v u ⟨hrun, fun o ho => ?_⟩ (hgo st t v hst hr hP hv hg) h
    by_cases hos : o = st
    · exact hos ▸ hset
    · refine hold o ?_
      rw [Stage.before_eq_some] at hp
      rw [Stage.mem_older] at ho ⊢
      rw [Stage.depth_inj] at hos
      omega
  · exact hend st t _ hr hP hv (Or.inr hg)

/-- A property `P` of the start of a cycle that every turn which goes on keeps, and a property `Q` of
every turn that is the last, give `Q` after the step. Unlike `step_induct` it tells a turn that ends
the step from one that another turn follows (R397, R399). -/
theorem step_induct_ordered {s s' : State} (h : step s = .next s')
    (hbegin : s.runState.accepts = true → P s.beginCycle) : Q s' := by
  unfold step stepCall at h
  split at h
  swap
  · cases h
  have hIF : ∀ t u, Reached .IF t → P t → loopFrom [.IF] t = .next u → Q u := by
    intro t u hr hP h
    obtain ⟨v, hv, ⟨_, h⟩ | ⟨_, rfl⟩⟩ := loop_turn h
    · cases h
      exact hend .IF t _ hr hP hv (Or.inl rfl)
    · exact hend .IF t _ hr hP hv (Or.inl rfl)
  have hID := fun t u => loopFrom_induct_before hgo hend (st := .ID) rfl hIF (t := t) (u := u)
  have hEX := fun t u => loopFrom_induct_before hgo hend (st := .EX) rfl hID (t := t) (u := u)
  have hMEM := fun t u => loopFrom_induct_before hgo hend (st := .MEM) rfl hEX (t := t) (u := u)
  exact loopFrom_induct_before hgo hend (st := .WB) rfl hMEM ⟨rfl, by simp [Stage.older]⟩
    (hbegin ‹_›) h

end

end Sys2Proof.Machine
end

section
/-!
What one instruction changes (O39, O41), the fetchHook of every instruction (O34), and the state after
reset() and a load (O58, O55).
-/

namespace Sys2Proof.Machine

/-- Settles O39: the due hook is not the writebackHook, and no other hook writes a register. -/
theorem registersChangeInWritebackOnly : Obligations.RegistersChangeInWritebackOnly := by
  intro i s t h hwb
  obtain ⟨b, st, e, _, hdue, rfl⟩ := exec_next h
  refine hookAt_registers i b st e s ?_
  rintro rfl
  exact hwb e hdue

/-- Settles O41: an instruction is the due hook of its row, and no hook writes these fields. -/
theorem instructionsLeaveControlState : Obligations.InstructionsLeaveControlState := by
  intro i s t h
  obtain ⟨b, st, e, _, _, rfl⟩ := exec_next h
  have hc := SameControl.of_hook i b st e s
  exact ⟨hc.cfg, hc.cfgIn, hc.params, hc.dmemBusy, hc.cycle, hc.semPc⟩

/-! ## The pc after a fetchHook (10_state.md R26) -/

/-- Sign extension and the two zero bits below an immediate multiply it by 4 (45_control.md R291). -/
theorem immSigned_mul_four (imm : Nat) :
    immSigned imm * 4#64 = (BitVec.ofNat 16 imm ++ 0#2).signExtend 64 := by
  rw [show (4#64 : Word) = BitVec.twoPow 64 2 from rfl, BitVec.mul_twoPow_eq_shiftLeft, immSigned,
    sextFrom]
  generalize BitVec.ofNat 16 imm = v
  ext k hk
  simp only [BitVec.getElem_shiftLeft, BitVec.getElem_signExtend, BitVec.getElem_append,
    BitVec.msb_append]
  by_cases h2 : k < 2
  · simp [h2]
    omega
  · by_cases h18 : k < 18
    · have h16 : k - 2 < 16 := by omega
      simp [h2, h18, h16]
    · have h16 : ¬k - 2 < 16 := by omega
      simp [h2, h18, h16]

theorem branchTarget_eq (ia : Word) (imm : Nat) : branchTarget ia imm = branchesTo ia imm := by
  rw [branchTarget, branchesTo, immSigned_mul_four, nextAddress]

/-- Off the control transfers the pc goes to the next instruction. -/
theorem nextPcOf_of_not_transfer {i : Instr} (h : isTransfer i = false) (ia a b : Word) :
    nextPcOf i ia a b = ia + 4#64 := by
  cases i <;> cases h <;> rfl

/-- The target of a conditional branch, where it is taken, as the pc. -/
theorem branchRow_pc (sources : List RegRef) (imm : Nat) (taken : List Word → Bool) (ia : Word)
    (vs : List Word) :
    ((branchRow sources imm taken).target ia vs).getD (ia + 4#64) =
      if taken vs then branchesTo ia imm else ia + 4#64 := by
  rw [← branchTarget_eq]
  simp only [branchRow]
  cases taken vs <;> rfl

/-- The row of a control transfer has the target and the condition of R26. -/
theorem transfer_row_pc {i : Instr} (ht : isTransfer i = true) : ∃ b, RowOf i b ∧ ∀ ia vs,
    (b.target ia vs).getD (ia + 4#64) = nextPcOf i ia (vs.getD 0 0#64) (vs.getD 1 0#64) := by
  cases i <;> cases ht <;>
    refine ⟨_, ⟨fun _ => rfl, rfl, rfl, rfl, rfl, rfl, rfl, rfl, nofun⟩, fun ia vs => ?_⟩
  case j.refl | jal.refl | jr.refl | jalr.refl => rfl
  case bc1eqz.refl imm =>
    rw [branchRow_pc]
    change _ = if (src0 vs).getLsbD 0 then ia + 4#64 else branchesTo ia imm
    cases (src0 vs).getLsbD 0 <;> rfl
  all_goals simp [branchRow_pc, nextPcOf, src0, src1]

/-- Every instruction has a row whose target, or else the next address, is the pc of R26. -/
theorem exec_row_pc (i : Instr) : ∃ b, RowOf i b ∧ ∀ ia vs,
    (b.target ia vs).getD (ia + 4#64) = nextPcOf i ia (vs.getD 0 0#64) (vs.getD 1 0#64) := by
  cases ht : isTransfer i with
  | true => exact transfer_row_pc ht
  | false =>
    obtain ⟨b, hb⟩ := exec_row i
    exact ⟨b, hb, fun ia vs => by rw [hb.staysOn ht, nextPcOf_of_not_transfer ht]; rfl⟩

/-- Settles O34: the due hook is the fetchHook of a row whose target is the pc of R26. -/
theorem fetchHookRule : Obligations.FetchHookRule := by
  intro i s e hdue
  obtain ⟨b, hb, hpc⟩ := exec_row_pc i
  rw [hb.exec_due hdue, hookAt]
  constructor
  · intro hs
    rw [hb.fetchHook_stalls hs]
    rfl
  · intro vs hs
    rw [hb.fetchHook_completes hs, hpc]

/-! ## reset() and load (10_state.md R57, 20_memory.md R81) -/

theorem State.sem_resetOp (s : State) (r : RegRef) : s.resetOp.sem r = 0 := by
  cases r <;> simp [State.sem, State.resetOp, State.reset, Vector.get_eq_getElem]

theorem State.readReg_resetOp (s : State) (r : RegRef) : s.resetOp.readReg r = 0#64 := by
  cases r <;>
    simp [State.readReg, State.readX, State.readF, State.resetOp, State.reset, Vector.get_eq_getElem]

theorem State.slot_resetOp (s : State) (st : Stage) : s.resetOp.slot st = none := by
  cases st <;> rfl

/-- Settles O58: reset() writes every field of R57 to its constant and copies the others. -/
theorem resetRule : Obligations.ResetRule := fun s =>
  ⟨rfl, s.sem_resetOp, rfl, rfl, s.readReg_resetOp, rfl, rfl, rfl, rfl, rfl, rfl, rfl, rfl, rfl, rfl,
    rfl⟩

/-- After reset() no semaphore counts anything and no slot holds anything. -/
theorem SemInv.of_resetOp (s : State) : SemInv s.resetOp where
  counts r := by
    rw [s.sem_resetOp]
    simp [State.claimCount, State.claimsAt, s.slot_resetOp]
  atMostOne r := by simp [s.sem_resetOp]
  zeroFree := s.sem_resetOp _
  pcFree := rfl
  fetchUnclaimed e h := by simp [s.slot_resetOp] at h
  retiredUnclaimed e h := by simp [s.slot_resetOp] at h
  waitingUnclaimed e h := by simp [s.slot_resetOp] at h
  claimsRegister o e h := by simp [s.slot_resetOp] at h

/-- The invariant after reset(): the pipeline is empty, so only the memories remain to be asked for. -/
theorem Inv.of_resetOp {s : State} (hm : MemoriesCanonical s) (hr : MemoriesInRange s) :
    Inv s.resetOp where
  memories := hm
  ranges := hr
  semaphores := .of_resetOp s
  decoded := fun o e h => by simp [s.slot_resetOp] at h
  regular := ⟨fun _ e h => by simp [s.slot_resetOp] at h, fun _ e h => by simp [s.slot_resetOp] at h,
    fun o p e _ h => by simp [s.slot_resetOp] at h⟩
  ordered := ⟨fun o y _ e k h => by simp [s.slot_resetOp] at h,
    fun o e h => by simp [s.slot_resetOp] at h⟩
  halt := ⟨fun o e h => by simp [s.slot_resetOp] at h, fun o e y h => by simp [s.slot_resetOp] at h,
    nofun⟩
  fault := ⟨by simp [State.resetOp, State.reset], nofun⟩

/-- An accepted load writes the memories of the image, every address of which fits. -/
theorem State.loadProgram_ok {s t : State} {im : Image} (h : s.loadProgram im = .ok t) :
    im.fits s.params = true ∧
      t = { s with imem := Memory.ofImage im.imem, dmem := Memory.ofImage im.dmem } := by
  unfold State.loadProgram at h
  split at h
  · cases h
  · split at h <;> cases h
    exact ⟨by simpa using ‹¬(!im.fits s.params) = true›, rfl⟩

theorem MemoriesCanonical.of_loadProgram {s t : State} {im : Image} (h : s.loadProgram im = .ok t) :
    MemoriesCanonical t := by
  obtain ⟨_, rfl⟩ := State.loadProgram_ok h
  exact ⟨Memory.wf_ofImage _, Memory.wf_ofImage _⟩

theorem MemoriesInRange.of_loadProgram {s t : State} {im : Image} (h : s.loadProgram im = .ok t) :
    MemoriesInRange t := by
  obtain ⟨hf, rfl⟩ := State.loadProgram_ok h
  simp only [Image.fits, Bool.and_eq_true, List.all_eq_true, beq_iff_eq, decide_eq_true_eq] at hf
  exact ⟨fun c hc => hf.1 c (Memory.mem_ofImage hc), fun c hc => hf.2 c (Memory.mem_ofImage hc)⟩

/-- A load keeps the invariant: but for the memories it changes nothing. -/
theorem Inv.loadProgram {s t : State} {im : Image} (hi : Inv s) (h : s.loadProgram im = .ok t) :
    Inv t := by
  have hc := MemoriesCanonical.of_loadProgram h
  have hr := MemoriesInRange.of_loadProgram h
  obtain ⟨_, rfl⟩ := State.loadProgram_ok h
  obtain ⟨_, _, sem, decoded, regular, ordered, halt, fault⟩ := hi
  exact ⟨hc, hr, ⟨sem.1, sem.2, sem.3, sem.4, sem.5, sem.6, sem.7, sem.8⟩, decoded,
    ⟨regular.1, regular.2, regular.3⟩, ordered, ⟨halt.1, halt.2, halt.3⟩, ⟨fault.1, fault.2⟩⟩

/-- Settles O55: `State.reset` is a reset of itself, whose memories are empty. -/
theorem resetAndLoadGiveInv : Obligations.ResetAndLoadGiveInv :=
  ⟨Inv.of_resetOp (s := State.reset) ⟨rfl, rfl⟩ ⟨nofun, nofun⟩,
    fun _ hc hr => Inv.of_resetOp hc hr, fun _ _ _ hi h => hi.loadProgram h⟩

end Sys2Proof.Machine
end

section
/-!
What a step counts and records: the cycle (O44), at most one stall (O45), the fault record (O52).
-/

namespace Sys2Proof.Machine

/-! ## Counting cycles and stalls (10_state.md R48, R49) -/

/-- A hook does not put the core back into READY. -/
theorem hookAt_not_ready {s : State} {st : Stage} (i : Instr) (b : Behaviour) (e : Entry)
    (h : s.runState ≠ .ready) : (hookAt i b st e s).runState ≠ .ready := by
  rcases hookAt_outcome i b st e s with ⟨k, hu⟩ | ⟨_, _, _, _, _, hu⟩ | ⟨_, _, hr | hr⟩
  · rw [hu]; simpa using h
  · rw [hu]; simp
  · rw [hr]; exact h
  · rw [hr]; simp

theorem turn_not_ready {st : Stage} {s u : State} (hr : Reached st s)
    (h : runStage st s = .next u) : u.runState ≠ .ready :=
  turn_keeps (P := fun t => t.runState ≠ .ready) hr (by rw [hr.1]; simp) h (by simp)
    (fun _ _ ht => by rw [(OnlySlotsDiffer.of_enter ht).runState, hr.1]; simp)
    (fun _ e i b _ hp _ _ _ _ => hookAt_not_ready i b e hp)

/-- An accepted step counts one cycle and writes no other field of this kind. -/
theorem step_sameControl {s t : State} (h : step s = .next t) : SameControl s.beginCycle t :=
  step_keeps h (fun _ => ⟨rfl, rfl, rfl, rfl, rfl, rfl, rfl⟩)
    fun _ _ _ hr hc hu => hc.trans (.of_turn hr hu)

/-- Settles O44: the start of the cycle counts it, and no turn writes these fields. -/
theorem stepCountsOneCycle : Obligations.StepCountsOneCycle := by
  intro s t h
  have hc := step_sameControl h
  have hr : t.runState ≠ .ready :=
    step_keeps (P := fun t => t.runState ≠ .ready) h (fun _ => by simp)
      fun _ _ _ hr _ hu => turn_not_ready hr hu
  exact ⟨hc.cycle, hc.cfg, hc.cfgIn, hc.params, hc.dmemBusy, hc.imem, hc.semPc, hr⟩

/-- What a step from `s` has done before it counts a stall and before its fetchHook: it has left the
counters, the pc and the fetch flag, and IF holds what it held, a waiting entry or nothing. -/
structure Unstalled (s t : State) : Prop where
  stalls : t.stalls = s.stalls
  pc : t.pc = s.pc
  fetchEnable : t.fetchEnable = s.fetchEnable
  noFetch : t.slot .IF = s.slot .IF ∨ ∀ e, t.slot .IF = some e → e.done = false

/-- What a step from `s` that counts a stall leaves. -/
structure StalledOnce (s t : State) : Prop where
  counted : ∃ k, t.stalls = (s.stall k).stalls
  running : t.runState = .running
  pc : t.pc = s.pc
  fetchEnable : t.fetchEnable = s.fetchEnable
  noFetch : fetchedOne s t = false

/-- The loop does not go on over a waiting entry. -/
theorem goesOn_undone {st : Stage} {s : State} {e : Entry} (h : s.slot st = some e)
    (hd : e.done = false) : goesOn st s = false := by
  unfold goesOn
  rw [h]
  simp [hd]

/-- Where IF holds what it held, a waiting entry or nothing, no fetchHook has completed. -/
theorem fetchedOne_eq_false {s t : State}
    (h : t.slot .IF = s.slot .IF ∨ ∀ e, t.slot .IF = some e → e.done = false) :
    fetchedOne s t = false := by
  unfold fetchedOne
  cases ht : t.slot .IF with
  | none => rfl
  | some e =>
    rw [ht] at h
    rcases h with h | h
    · simp [← h]
    · simp [h e rfl]

/-- Bringing an entry into a stage completes nothing. -/
theorem Unstalled.enter {s t v : State} {st : Stage} {e : Entry} (hp : Unstalled s t)
    (h : enter st t = .hook v e) : Unstalled s v := by
  have hk := OnlySlotsDiffer.of_enter h
  have ho := entry_origin h
  refine ⟨hk.stalls.trans hp.stalls, hk.pc.trans hp.pc, hk.fetchEnable.trans hp.fetchEnable, ?_⟩
  by_cases hst : .IF = st
  · subst hst
    rw [ho.slot_here]
    exact Or.inr fun k hk => Option.some.inj hk ▸ ho.undone
  · rcases ho.slot_other hst with h' | h' <;> rw [h']
    · exact hp.noFetch
    · exact Or.inr (by simp)

/-- A hook behind IF that counts no stall changes nothing of this. -/
theorem Unstalled.hook {s v : State} {st : Stage} (hp : Unstalled s v) (i : Instr) (b : Behaviour)
    (e : Entry) (hst : st ≠ .IF) (hs : (hookAt i b st e v).stalls = v.stalls) :
    Unstalled s (hookAt i b st e v) := by
  obtain ⟨hpc, hfe⟩ := hookAt_front i b e v hst
  refine ⟨hs.trans hp.stalls, hpc.trans hp.pc, hfe.trans hp.fetchEnable, ?_⟩
  rw [hookAt_slot_other i b st .IF e v hst.symm]
  exact hp.noFetch

/-- A stall counts itself and changes nothing else. -/
theorem Unstalled.stall {s v : State} (hp : Unstalled s v) (hrun : v.runState = .running)
    (k : Hazard) : StalledOnce s (v.stall k) where
  counted := ⟨k, by cases k <;> simp [State.stall, hp.stalls]⟩
  running := by simp [hrun]
  pc := by simp [hp.pc]
  fetchEnable := by simp [hp.fetchEnable]
  noFetch := fetchedOne_eq_false (by
    rw [State.slot_congr (State.stall_slots v k)]
    exact hp.noFetch)

/-- A turn leaves the counters, or it counts one stall and is the last of its step. -/
theorem Unstalled.turn {s t u : State} {st : Stage} (hr : Reached st t) (hp : Unstalled s t)
    (h : runStage st t = .next u) :
    (u.stalls = s.stalls ∧ (st ≠ .IF → Unstalled s u)) ∨
      (StalledOnce s u ∧ goesOn st u = false) := by
  rcases runStage_cases h hr.2 with ⟨rfl, _⟩ | ⟨_, _, hIF, _, rfl⟩ | ⟨v, e, hIF, hv, _, rfl⟩ |
      ⟨v, e, i, b, hv, _, _, he, hd, _, rfl⟩
  · exact Or.inl ⟨hp.stalls, fun _ => hp⟩
  · exact Or.inl ⟨hp.stalls, fun hne => absurd hIF hne⟩
  · exact Or.inl ⟨(hp.enter hv).stalls, fun hne => absurd hIF hne⟩
  · have hpv := hp.enter hv
    have calm : ∀ hs : (hookAt i b st e v).stalls = v.stalls,
        (hookAt i b st e v).stalls = s.stalls ∧ (st ≠ .IF → Unstalled s (hookAt i b st e v)) :=
      fun hs => ⟨hs.trans hpv.stalls, fun hne => hpv.hook i b e hne hs⟩
    rcases hookAt_outcome i b st e v with ⟨k, hu⟩ | ⟨_, _, _, _, _, hu⟩ | ⟨hs, _, _⟩
    · right
      rw [hu]
      exact ⟨hpv.stall ((OnlySlotsDiffer.of_enter hv).runState.trans hr.1) k,
        goesOn_undone ((State.slot_congr (State.stall_slots v k) st).trans he) hd⟩
    · exact Or.inl (calm (by rw [hu]; simp))
    · exact Or.inl (calm hs)

/-- Settles O45: a stall leaves its entry waiting, so the turn that counts one is the last of its
step. -/
theorem atMostOneStallPerStep : Obligations.AtMostOneStallPerStep := by
  intro s t h
  have key : t.stalls = s.stalls ∨ StalledOnce s t := by
    refine step_induct_ordered (P := Unstalled s)
      (Q := fun t => t.stalls = s.stalls ∨ StalledOnce s t) ?_ ?_ h
      fun _ => ⟨rfl, rfl, rfl, Or.inl rfl⟩
    · intro st v u hst hr hp hu hg
      rcases hp.turn hr hu with ⟨_, hn⟩ | ⟨_, hn⟩
      · exact hn hst
      · rw [hg] at hn; cases hn
    · intro st v u hr hp hu _
      exact (hp.turn hr hu).imp And.left And.left
  rcases key with h | ⟨⟨k, hk⟩, hrun, hpc, hfe, hf⟩
  · exact Or.inl h
  · exact Or.inr ⟨by rw [hk]; cases k <;> simp [State.stall], hrun, hpc, hfe, hf⟩

/-! ## The fault record (10_state.md R44, 60_exceptions.md R360) -/

/-- Taking a fault writes the record of its kind. -/
theorem FaultRecorded.takeFault (s : State) (k : FaultKind) (ia addr : Word) (n : Nat) (w : IWord) :
    FaultRecorded (s.takeFault k ia addr n w) :=
  ⟨by simp, by rintro r ⟨⟩; rfl⟩

/-- Outside FAULTED there is no record. -/
theorem FaultRecorded.none_of_ne {s : State} (hi : FaultRecorded s) (h : s.runState ≠ .faulted) :
    s.faultRec = none := by
  rw [← Option.not_isSome_iff_eq_none, ← hi.faulted]
  exact h

/-- A state outside FAULTED without a record is as R44 has it. -/
theorem FaultRecorded.of_none {s : State} (hr : s.runState ≠ .faulted) (hn : s.faultRec = none) :
    FaultRecorded s := ⟨by simp [hr, hn], by simp [hn]⟩

/-- Of the hooks of a running core only one that takes a fault writes a record. -/
theorem FaultRecorded.hook {s : State} (hi : FaultRecorded s) (hrun : s.runState = .running)
    (i : Instr) (b : Behaviour) (st : Stage) (e : Entry) : FaultRecorded (hookAt i b st e s) := by
  have hnone := hi.none_of_ne (by simp [hrun])
  rcases hookAt_outcome i b st e s with ⟨k, hu⟩ | ⟨_, _, _, _, _, hu⟩ | ⟨_, hf, hs⟩
  · rw [hu]
    exact .of_none (by simp [hrun]) (by simp [hnone])
  · rw [hu]
    exact .takeFault ..
  · refine .of_none ?_ (hf.trans hnone)
    rcases hs with hs | hs <;> simp [hs, hrun]

theorem FaultRecorded.turn {st : Stage} {s u : State} (hr : Reached st s) (hi : FaultRecorded s)
    (h : runStage st s = .next u) : FaultRecorded u := by
  have hrun : s.runState ≠ .faulted := by simp [hr.1]
  refine turn_keeps hr hi h (fun _ _ _ _ _ _ _ => .takeFault ..) (fun t e ht => ?_)
    (fun _ e i b hrun hp _ _ _ _ => hp.hook hrun i b st e)
  have hk := OnlySlotsDiffer.of_enter ht
  exact .of_none (hk.runState ▸ hrun) (hk.faultRec.trans (hi.none_of_ne hrun))

/-- An accepted step begins without a record. -/
theorem FaultRecorded.beginCycle {s : State} (h : FaultRecorded s)
    (ha : s.runState.accepts = true) : FaultRecorded s.beginCycle := by
  refine .of_none (by simp) (h.none_of_ne fun hf => ?_)
  rw [hf] at ha
  cases ha

/-- Settles O52: the start of a cycle has no record and every turn keeps the claim. -/
theorem stepKeepsFaultRecord : Obligations.StepKeepsFaultRecord := fun _ _ hs h =>
  step_keeps h hs.beginCycle fun _ _ _ hr hp hu => hp.turn hr hu

end Sys2Proof.Machine
end

section
/-!
The semaphores count the claims in flight (O49). A turn brings an entry into its stage, which moves its
claim (`SemInv.enter`), and runs its hook, which changes a semaphore as it changes the claim of its
entry (`ClaimAfter.balance`).
-/

namespace Sys2Proof.Machine

/-! ## Counting claims (10_state.md R32) -/

/-- An entry's claim as a count. -/
theorem State.claimsAt_some {s : State} {st : Stage} {e : Entry} (h : s.slot st = some e)
    (r : RegRef) : s.claimsAt r st = if e.claims r then 1 else 0 := by
  unfold State.claimsAt
  rw [h]

/-- An unclaimed stage counts nothing. -/
theorem State.claimsAt_unclaimed {s : State} {st : Stage} (h : s.unclaimedAt st) (r : RegRef) :
    s.claimsAt r st = 0 := by
  unfold State.claimsAt
  cases hs : s.slot st with
  | none => rfl
  | some e => simp [Entry.claims_unclaimed (h e hs) r]

theorem State.claimsAt_congr {s t : State} {st : Stage} (h : t.slot st = s.slot st) (r : RegRef) :
    t.claimsAt r st = s.claimsAt r st := by
  unfold State.claimsAt
  rw [h]

/-- Changing one stage that claims may stand in changes the count by the difference in that stage. -/
theorem State.claimCount_update {s t : State} {st : Stage} (hst : st ≠ .IF)
    (h : ∀ o, o ≠ st → t.slot o = s.slot o) (r : RegRef) :
    t.claimCount r + s.claimsAt r st = s.claimCount r + t.claimsAt r st := by
  have hc := fun o ho => State.claimsAt_congr (h o ho) r
  unfold State.claimCount
  cases st
  · exact absurd rfl hst
  all_goals simp [hc]; omega

/-- What IF holds does not count. -/
theorem State.claimCount_congr {s t : State} (h : ∀ o, o ≠ .IF → t.slot o = s.slot o) (r : RegRef) :
    t.claimCount r = s.claimCount r := by
  have hc := fun o ho => State.claimsAt_congr (h o ho) r
  simp [State.claimCount, hc]

/-- A claim in a stage past IF counts. -/
theorem State.claimCount_pos {s : State} {st : Stage} {e : Entry} {r : RegRef} (hst : st ≠ .IF)
    (h : s.slot st = some e) (hc : e.claims r = true) : 0 < s.claimCount r := by
  have h1 : s.claimsAt r st = 1 := by rw [State.claimsAt_some h, if_pos hc]
  unfold State.claimCount
  cases st
  · exact absurd rfl hst
  all_goals omega

/-! ## The invariant within a turn -/

/-- `SemInv` while the hook of stage `st` is due: the entry that moved into WB may still hold its
claim. -/
structure SemDuring (st : Stage) (s : State) : Prop where
  counts : ∀ r, s.sem r = s.claimCount r
  atMostOne : ∀ r, s.sem r ≤ 1
  pcFree : s.semPc = 0
  fetchUnclaimed : s.unclaimedAt .IF
  retiredUnclaimed : st ≠ .WB → s.unclaimedAt .WB
  waitingUnclaimed : ∀ e, s.slot .ID = some e → e.done = false → e.claimed = false
  claimsRegister : ∀ o e, s.slot o = some e → e.claimed = true → ∃ d, e.dst = some d ∧ d ≠ .x 0

/-- No entry claims `x[0]`, so its count is 0. -/
theorem claimCount_zero {s : State}
    (h : ∀ o e, s.slot o = some e → e.claimed = true → ∃ d, e.dst = some d ∧ d ≠ .x 0) :
    s.claimCount (.x 0) = 0 := by
  have h0 : ∀ o, s.claimsAt (.x 0) o = 0 := fun o => by
    unfold State.claimsAt
    split
    · rfl
    · rename_i e he
      refine if_neg fun hc => ?_
      obtain ⟨hcl, hdst⟩ := Entry.claims_iff.mp hc
      obtain ⟨d, hd, hne⟩ := h o e he hcl
      rw [hdst] at hd
      cases hd
      exact hne rfl
  simp [State.claimCount, h0]

/-- Once WB is unclaimed the invariant holds again. -/
theorem SemDuring.semInv {st : Stage} {s : State} (h : SemDuring st s) (hwb : s.unclaimedAt .WB) :
    SemInv s where
  counts := h.counts
  atMostOne := h.atMostOne
  zeroFree := (h.counts _).trans (claimCount_zero h.claimsRegister)
  pcFree := h.pcFree
  fetchUnclaimed := h.fetchUnclaimed
  retiredUnclaimed := hwb
  waitingUnclaimed := h.waitingUnclaimed
  claimsRegister := h.claimsRegister

/-- The invariant looks at the semaphores, the claims and the slots only, and survives the loss of an
entry that does not count. -/
theorem SemInv.congr {s u : State} (hi : SemInv s) (hsem : ∀ r, u.sem r = s.sem r)
    (hpc : u.semPc = s.semPc) (hcount : ∀ r, u.claimCount r = s.claimCount r)
    (hslot : ∀ o e, u.slot o = some e → s.slot o = some e) : SemInv u where
  counts r := (hsem r).trans ((hi.counts r).trans (hcount r).symm)
  atMostOne r := hsem r ▸ hi.atMostOne r
  zeroFree := (hsem _).trans hi.zeroFree
  pcFree := hpc.trans hi.pcFree
  fetchUnclaimed e h := hi.fetchUnclaimed e (hslot _ e h)
  retiredUnclaimed e h := hi.retiredUnclaimed e (hslot _ e h)
  waitingUnclaimed e h := hi.waitingUnclaimed e (hslot _ e h)
  claimsRegister o e h := hi.claimsRegister o e (hslot o e h)

/-- A fault changes no slot and no semaphore. -/
theorem SemInv.takeFault {s : State} (hi : SemInv s) (k : FaultKind) (ia addr : Word) (n : Nat)
    (w : IWord) : SemInv (s.takeFault k ia addr n w) :=
  hi.congr (State.sem_congr (by simp) (by simp)) (by simp) (fun _ => rfl) fun _ _ h => h

/-- Moving an entry on moves its claim; one that comes from IF has none. -/
theorem claimCount_enter {st : Stage} {s t : State} {e : Entry} (hIF : s.unclaimedAt .IF)
    (h : EntryOrigin st s t e) (r : RegRef) : t.claimCount r = s.claimCount r := by
  cases h with
  | fetched hst _ _ _ hs =>
    subst hst
    exact State.claimCount_congr (fun o ho => by rw [hs, if_neg ho]) r
  | waiting _ _ hs => rw [hs]
  | moved p k hp h0 hk hd he hs =>
    have hclaims : e.claims r = k.claims r := by rw [he]; rfl
    have hto : ∀ o, t.claimsAt r o =
        if o = st then s.claimsAt r p else if o = p then 0 else s.claimsAt r o := fun o => by
      have ho := hs o
      split <;> rename_i h1
      · rw [if_pos h1] at ho
        rw [State.claimsAt_some ho, State.claimsAt_some hk, hclaims]
      · rw [if_neg h1] at ho
        split <;> rename_i h2
        · rw [if_pos h2] at ho
          unfold State.claimsAt
          rw [ho]
        · rw [if_neg h2] at ho
          exact State.claimsAt_congr ho r
    have hst : s.claimsAt r st = 0 := by unfold State.claimsAt; rw [h0]
    have hfrom := s.claimsAt_unclaimed hIF r
    unfold State.claimCount
    cases st <;> cases hp <;> simp [hto] <;> omega

/-- The invariant as the hook of a turn finds it. -/
theorem SemInv.enter {st : Stage} {s t : State} {e : Entry} (hi : SemInv s)
    (h : enter st s = .hook t e) : SemDuring st t ∧ (st = .IF ∨ st = .ID → e.claimed = false) := by
  have ho := entry_origin h
  have hk := OnlySlotsDiffer.of_enter h
  have here : st = .IF ∨ st = .ID → e.claimed = false := by
    intro hst
    cases ho with
    | fetched _ _ _ he _ => rw [he]; rfl
    | waiting h0 hd _ =>
      rcases hst with rfl | rfl
      · exact hi.fetchUnclaimed e h0
      · exact hi.waitingUnclaimed e h0 hd
    | moved p k hp _ hk _ he _ =>
      rcases hst with rfl | rfl <;> cases hp
      rw [he]
      exact hi.fetchUnclaimed k hk
  refine ⟨⟨fun r => ?_, fun r => ?_, ?_, ?_, ?_, ?_, ?_⟩, here⟩
  · rw [hk.sem, hi.counts, claimCount_enter hi.fetchUnclaimed ho]
  · rw [hk.sem]
    exact hi.atMostOne r
  · exact (SameControl.of_enter h).semPc.trans hi.pcFree
  · intro k hk
    by_cases hst : st = .IF
    · subst hst
      rw [ho.slot_here] at hk
      cases hk
      exact here (Or.inl rfl)
    · exact hi.fetchUnclaimed k (ho.slot_other_some (Ne.symm hst) hk)
  · intro hst k hk
    exact hi.retiredUnclaimed k (ho.slot_other_some (Ne.symm hst) hk)
  · intro k hk hd
    by_cases hst : st = .ID
    · subst hst
      rw [ho.slot_here] at hk
      cases hk
      exact here (Or.inr rfl)
    · exact hi.waitingUnclaimed k (ho.slot_other_some (Ne.symm hst) hk) hd
  · intro o k hk hc
    by_cases hst : o = st
    · subst hst
      rw [ho.slot_here] at hk
      cases hk
      cases ho with
      | fetched _ _ _ he _ => rw [he] at hc; cases hc
      | waiting h0 _ _ => exact hi.claimsRegister o e h0 hc
      | moved p k _ _ hk _ he _ =>
        rw [he] at hc ⊢
        exact hi.claimsRegister p k hk hc
    · exact hi.claimsRegister o k (ho.slot_other_some hst hk) hc

/-- A hook changes each semaphore as it changes the claim of its slot. -/
theorem ClaimAfter.balance {st : Stage} {e : Entry} {s u : State} (h : ClaimAfter st e s u)
    (he : s.slot st = some e) (hID : st = .ID → e.claimed = false)
    (hWB : ∀ r, st = .WB → e.claims r = true → 0 < s.sem r) (r : RegRef) :
    u.sem r + s.claimsAt r st = s.sem r + u.claimsAt r st := by
  rw [State.claimsAt_some he]
  cases h with
  | kept k hk _ hc hd hs =>
    have hcl : k.claims r = e.claims r := by unfold Entry.claims; rw [hc, hd]
    rw [hs, State.claimsAt_some hk, hcl]
  | claimed k hk hst _ hc _ _ hs =>
    have hn := Entry.claims_unclaimed (hID hst) r
    have hc : k.claims r = decide (k.dst = some r) := by
      rw [Bool.eq_iff_iff, Entry.claims_iff, decide_eq_true_iff, hc, and_iff_right_iff_imp]
      intro hd
      rw [hd]
      rfl
    simp [hs, State.claimsAt_some hk, hn, hc]
  | released k hk hst hc hs =>
    have hpos := hWB r hst
    rw [hs, State.claimsAt_some hk, Entry.claims_unclaimed hc r]
    cases hcl : e.claims r with
    | false => rfl
    | true => simpa using Nat.sub_add_cancel (hpos hcl)

/-- Every hook keeps the semaphores at 0 or 1. -/
theorem ClaimAfter.sem_le_one {st : Stage} {e : Entry} {s u : State} (h : ClaimAfter st e s u)
    (hs : ∀ r, s.sem r ≤ 1) (r : RegRef) : u.sem r ≤ 1 := by
  have hr := hs r
  cases h with
  | kept _ _ _ _ _ hu => rw [hu]; exact hr
  | claimed k _ _ _ _ _ hfree hu =>
    rw [hu]
    split
    · rw [hfree r ‹_›]
    · exact hr
  | released _ _ _ _ hu => rw [hu]; exact (Nat.sub_le _ _).trans hr

/-- A hook that finds an entry without a claim and does not complete it in ID leaves it without one. -/
theorem ClaimAfter.unclaimed {st : Stage} {e k : Entry} {s u : State} (h : ClaimAfter st e s u)
    (hk : u.slot st = some k) (he : e.claimed = false) (hid : st = .ID → k.done = false) :
    k.claimed = false := by
  cases h with
  | kept k' hk' _ hc _ _ => rw [hk] at hk'; cases hk'; exact hc.trans he
  | claimed k' hk' hst hdone _ _ _ _ =>
    rw [hk] at hk'; cases hk'
    rw [hid hst] at hdone
    cases hdone
  | released k' hk' _ hc _ => rw [hk] at hk'; cases hk'; exact hc

/-- A writebackHook leaves its entry without a claim. -/
theorem ClaimAfter.unclaimed_WB {e : Entry} {s u : State} (h : ClaimAfter .WB e s u) :
    u.unclaimedAt .WB := by
  intro k hk
  cases h with
  | kept _ _ hst _ _ _ => exact absurd rfl hst
  | claimed _ _ hst _ _ _ _ _ => cases hst
  | released k' hk' _ hc _ => rw [hk] at hk'; cases hk'; exact hc

/-- A claim is on a register other than `x[0]` after a hook if it was so before. -/
theorem ClaimAfter.claims_register {st : Stage} {e k : Entry} {s u : State} (h : ClaimAfter st e s u)
    (he : e.claimed = true → ∃ d, e.dst = some d ∧ d ≠ .x 0) (hk : u.slot st = some k)
    (hcl : k.claimed = true) : ∃ d, k.dst = some d ∧ d ≠ .x 0 := by
  cases h with
  | kept k' hk' _ hc hd _ =>
    rw [hk] at hk'; cases hk'
    rw [hd]
    exact he (hc ▸ hcl)
  | claimed k' hk' _ _ hc hne _ _ =>
    rw [hk] at hk'; cases hk'
    obtain ⟨d, hd⟩ := Option.isSome_iff_exists.mp (hc ▸ hcl)
    exact ⟨d, hd, fun h0 => hne (h0 ▸ hd)⟩
  | released k' hk' _ hc _ =>
    rw [hk] at hk'; cases hk'
    rw [hc] at hcl
    cases hcl

/-- Every hook gives the invariant back. -/
theorem SemDuring.hook {st : Stage} {s : State} {e : Entry} (hi : SemDuring st s) (i : Instr)
    (b : Behaviour) (he : s.slot st = some e) (hearly : st = .IF ∨ st = .ID → e.claimed = false) :
    SemInv (hookAt i b st e s) := by
  have hc := hookAt_claim i b he
  have hpc := (SameControl.of_hook i b st e s).semPc.trans hi.pcFree
  have other := fun o ho => hookAt_slot_other i b st o e s ho
  generalize hookAt i b st e s = u at hc hpc other
  have hfetch : u.unclaimedAt .IF := by
    intro k hk
    by_cases hst : .IF = st
    · subst hst
      exact hc.unclaimed hk (hearly (Or.inl rfl)) nofun
    · exact hi.fetchUnclaimed k (other _ hst ▸ hk)
  have hwb : u.unclaimedAt .WB := by
    by_cases hst : .WB = st
    · subst hst
      exact hc.unclaimed_WB
    · intro k hk
      exact hi.retiredUnclaimed (Ne.symm hst) k (other _ hst ▸ hk)
  refine SemDuring.semInv (st := st) ⟨fun r => ?_, hc.sem_le_one hi.atMostOne, hpc, hfetch,
    fun _ => hwb, fun k hk hd => ?_, fun o k hk hcl => ?_⟩ hwb
  · have hbal := hc.balance he (fun h => hearly (Or.inr h)) (fun r hst hr => by
      rw [hi.counts]
      exact State.claimCount_pos (by rw [hst]; simp) he hr) r
    have hs := hi.counts r
    by_cases hst : st = .IF
    · subst hst
      rw [State.claimsAt_unclaimed hi.fetchUnclaimed, State.claimsAt_unclaimed hfetch] at hbal
      rw [State.claimCount_congr other]
      omega
    · have := State.claimCount_update hst other r
      omega
  · by_cases hst : .ID = st
    · subst hst
      exact hc.unclaimed hk (hearly (Or.inr rfl)) fun _ => hd
    · exact hi.waitingUnclaimed k (other _ hst ▸ hk) hd
  · by_cases hst : o = st
    · subst hst
      exact hc.claims_register (hi.claimsRegister o e he) hk hcl
    · exact hi.claimsRegister o k (other _ hst ▸ hk) hcl

/-- Every turn keeps the invariant. -/
theorem SemInv.turn {st : Stage} {s u : State} (hr : Reached st s) (hi : SemInv s)
    (h : runStage st s = .next u) : SemInv u := by
  rcases runStage_cases h hr.2 with ⟨rfl, _⟩ | ⟨_, _, _, _, rfl⟩ | ⟨t, e, hst, ht, _, rfl⟩ |
      ⟨t, e, i, b, ht, _, _, he, _, _, rfl⟩
  · exact hi
  · exact hi.takeFault ..
  · obtain ⟨hd, _⟩ := hi.enter ht
    exact (hd.semInv (hd.retiredUnclaimed (by rw [hst]; simp))).takeFault ..
  · obtain ⟨hd, hearly⟩ := hi.enter ht
    exact hd.hook i b he hearly

/-- The instruction retired at the start of a cycle holds no claim. -/
theorem SemInv.beginCycle {s : State} (hi : SemInv s) : SemInv s.beginCycle := by
  refine hi.congr (State.sem_congr (by simp) (by simp)) (by simp) (fun r => ?_)
    fun _ _ => beginCycle_slot
  have h0 := State.claimsAt_unclaimed hi.retiredUnclaimed r
  unfold State.claimCount
  rw [h0]
  rfl

/-- Settles O49: the retired entry held no claim, and every turn keeps semaphores and claims equal. -/
theorem stepKeepsSemaphores : Obligations.StepKeepsSemaphores := fun _ _ hi h =>
  step_keeps h (fun _ => hi.beginCycle) fun _ _ _ hr hp hu => hp.turn hr hu

end Sys2Proof.Machine
end

section
/-!
The slots (O50), HALT (O51) and the memories, and from all parts the whole invariant (O54). Each part is
kept by an entry coming into its stage (`enter`) and by a hook (`hook`), hence by a turn and a step.
-/

namespace Sys2Proof.Machine

/-! ## Entries carry their instruction (10_state.md R40, 70_reset_and_hazards.md R403) -/

theorem decode_of_entryInstr_IF {e : Entry} {i : Instr} (h : entryInstr .IF e = some i) :
    decode e.word = .ins i := by
  unfold entryInstr at h
  cases hw : decode e.word with
  | reserved => simp only [hw] at h; cases h
  | ins j => simp only [hw] at h; cases h; rfl

theorem EntriesDecoded.enter {st : Stage} {s t : State} {e : Entry} (hi : EntriesDecoded s)
    (h : enter st s = .hook t e) : EntriesDecoded t := by
  intro o k hk hcond
  have ho := entry_origin h
  by_cases hst : o = st
  · subst hst
    rw [ho.slot_here] at hk
    cases hk
    cases ho with
    | fetched hst _ _ he _ =>
      subst he
      rcases hcond with hne | hd
      · exact absurd hst hne
      · cases hd
    | waiting h0 _ _ => exact hi o e h0 hcond
    | moved p k _ _ hk hd he _ =>
      subst he
      exact hi p k hk (Or.inr hd)
  · exact hi o k (ho.slot_other_some hst hk) hcond

theorem EntriesDecoded.hook {st : Stage} {s : State} {e : Entry} {i : Instr} (hi : EntriesDecoded s)
    (he : s.slot st = some e) (hins : entryInstr st e = some i) (b : Behaviour) :
    EntriesDecoded (hookAt i b st e s) := by
  intro o k hk hcond
  by_cases hst : o = st
  · subst hst
    rcases hookAt_slot i b he with ⟨h, _, _⟩ | ⟨k', h, _, _, _, hw, _, hki, _⟩ |
        ⟨k', h, hwb, _, _, _, _, hw, _, hki⟩ <;> rw [hk] at h <;> cases h
    · exact hi o _ he hcond
    · by_cases hIF : o = .IF
      · subst hIF
        exact ⟨i, by simpa using hki, hw ▸ decode_of_entryInstr_IF hins⟩
      · rw [hki, if_neg hIF, hw]
        exact hi o e he (Or.inl hIF)
    · rw [hki, hw]
      exact hi o e he (Or.inl (by rw [hwb]; simp))
  · exact hi o k (hookAt_slot_other i b st o e s hst ▸ hk) hcond

theorem EntriesDecoded.turn {st : Stage} {s u : State} (hr : Reached st s) (hi : EntriesDecoded s)
    (h : runStage st s = .next u) : EntriesDecoded u :=
  turn_keeps hr hi h (fun _ _ _ _ _ _ hp o e he => hp o e he) (fun _ _ ht => hi.enter ht)
    (fun _ _ _ b _ hp he _ hins _ => hp.hook he hins b)

theorem EntriesDecoded.step {s t : State} (hi : EntriesDecoded s) (h : step s = .next t) :
    EntriesDecoded t :=
  step_keeps h (fun _ st e he => hi st e (beginCycle_slot he)) fun _ _ _ hr hp hu => hp.turn hr hu

/-! ## Where entries may wait (10_state.md R41 (b), (c)) -/

/-- The stage before a waiting entry is empty. -/
def EmptyBehindStall (s : State) : Prop :=
  ∀ st p e, st.before = some p → s.slot st = some e → e.done = false → s.slot p = none

theorem Stage.before_ne {st p : Stage} (h : st.before = some p) : p ≠ st := by
  rw [Stage.before_eq_some] at h
  rw [ne_eq, Stage.depth_inj]
  omega

theorem Stage.older_of_before {st p : Stage} (h : st.before = some p) : st ∈ p.older := by
  rw [Stage.before_eq_some] at h
  rw [Stage.mem_older]
  omega

/-- An entry comes only into a stage behind settled ones, and leaves an empty stage behind. -/
theorem EmptyBehindStall.enter {st : Stage} {s t : State} {e : Entry} (hr : Reached st s)
    (hi : EmptyBehindStall s) (h : enter st s = .hook t e) : EmptyBehindStall t := by
  intro o p k hp hk hd
  have ho := entry_origin h
  by_cases hst : o = st
  · subst hst
    rw [ho.slot_here] at hk
    cases hk
    cases ho with
    | fetched hst _ _ _ _ => subst hst; cases hp
    | waiting h0 hd hs => exact hs ▸ hi o p e hp h0 hd
    | moved q _ hq _ _ _ _ hs =>
      rw [hp] at hq
      cases hq
      rw [hs, if_neg (Stage.before_ne hp), if_pos rfl]
  · have hks := ho.slot_other_some hst hk
    by_cases hpst : p = st
    · subst hpst
      have := hr.2 o (Stage.older_of_before hp) k hks
      rw [hd] at this
      cases this
    · exact ho.slot_other_none hpst (hi o p k hp hks hd)

theorem EmptyBehindStall.hook {st : Stage} {s : State} {e : Entry} (hi : EmptyBehindStall s)
    (he : s.slot st = some e) (hd : e.done = false) (i : Instr) (b : Behaviour) :
    EmptyBehindStall (hookAt i b st e s) := by
  have other := fun o ho => hookAt_slot_other i b st o e s ho
  intro o p k hp hk hkd
  by_cases hst : o = st
  · subst hst
    rw [other p (Stage.before_ne hp)]
    exact hi o p e hp he hd
  · rw [other o hst] at hk
    have hnone := hi o p k hp hk hkd
    have hpst : p ≠ st := by
      rintro rfl
      rw [he] at hnone
      cases hnone
    rw [other p hpst, hnone]

theorem EmptyBehindStall.turn {st : Stage} {s u : State} (hr : Reached st s)
    (hi : EmptyBehindStall s) (h : runStage st s = .next u) : EmptyBehindStall u :=
  turn_keeps hr hi h (fun _ _ _ _ _ _ hp o p e hb he hd => hp o p e hb he hd)
    (fun _ _ ht => hi.enter hr ht) (fun _ _ i b _ hp he hd _ _ => hp.hook he hd i b)

/-- A hook of EX or WB leaves its entry done, or the run has ended. -/
theorem hookAt_done {st : Stage} {s : State} {e k : Entry} (i : Instr) (b : Behaviour)
    (he : s.slot st = some e) (hst : st = .EX ∨ st = .WB)
    (ha : (hookAt i b st e s).runState.accepts = true) (hk : (hookAt i b st e s).slot st = some k) :
    k.done = true := by
  rcases hookAt_slot i b he with ⟨_, hr, hwb⟩ | ⟨k', h, hd, _, _, _, _, _, _⟩ |
      ⟨_, _, _, _, _, hr, _, _, _, _⟩
  · rcases hr with ⟨_, hex⟩ | hr
    · exact absurd hst (not_or.mpr ⟨hex, hwb⟩)
    · rw [hr] at ha; cases ha
  · rw [hk] at h; cases h; exact hd
  · rw [hr] at ha; cases ha

/-- EX and WB hold no waiting entry while steps are accepted. -/
theorem doneAt_turn {st o : Stage} {s u : State} (hr : Reached st s) (ho : o = .EX ∨ o = .WB)
    (hi : s.doneAt o) (h : runStage st s = .next u) (ha : u.runState.accepts = true) :
    u.doneAt o := by
  rcases runStage_cases h hr.2 with ⟨rfl, _⟩ | ⟨_, _, _, _, rfl⟩ | ⟨t, e, _, _, _, rfl⟩ |
      ⟨t, e, i, b, ht, _, _, he, _, _, rfl⟩
  · exact hi
  · cases ha
  · cases ha
  · intro k hk
    by_cases hst : o = st
    · subst hst
      exact hookAt_done i b he ho ha hk
    · rw [hookAt_slot_other i b st o e t hst] at hk
      exact hi k ((entry_origin ht).slot_other_some hst hk)

theorem SlotsRegular.turn {st : Stage} {s u : State} (hr : Reached st s) (hi : SlotsRegular s)
    (h : runStage st s = .next u) : SlotsRegular u := by
  have ha : s.runState.accepts = true := by rw [hr.1]; rfl
  exact ⟨doneAt_turn hr (Or.inl rfl) (hi.executeDone ha) h,
    doneAt_turn hr (Or.inr rfl) (hi.writebackDone ha) h, EmptyBehindStall.turn hr hi.behindStall h⟩

theorem SlotsRegular.beginCycle {s : State} (hi : SlotsRegular s) (ha : s.runState.accepts = true) :
    SlotsRegular s.beginCycle := by
  refine ⟨fun _ e he => hi.executeDone ha e (beginCycle_slot he),
    fun _ e he => hi.writebackDone ha e (beginCycle_slot he), fun st p e hp he hd => ?_⟩
  exact beginCycle_slot_none (hi.behindStall st p e hp (beginCycle_slot he) hd)

theorem SlotsRegular.step {s t : State} (hi : SlotsRegular s) (h : step s = .next t) :
    SlotsRegular t :=
  step_keeps h hi.beginCycle fun _ _ _ hr hp hu => hp.turn hr hu

/-! ## Program order (10_state.md R41 (a)) -/

/-- Older stages hold entries fetched earlier. -/
def SlotsOrdered (s : State) : Prop :=
  ∀ st y, y ∈ st.younger → ∀ e k, s.slot st = some e → s.slot y = some k →
    e.entryCycle < k.entryCycle

/-- Every entry was fetched before cycle `n`. -/
def FetchedBefore (n : Nat) (s : State) : Prop := ∀ st e, s.slot st = some e → e.entryCycle < n

theorem inProgramOrder_iff {s : State} :
    InProgramOrder s ↔ SlotsOrdered s ∧ FetchedBefore (s.cycle + 1) s := by
  unfold InProgramOrder SlotsOrdered FetchedBefore
  simp only [Nat.lt_succ_iff]

/-- Program order is told by the times in the slots. -/
theorem SlotsOrdered.of_times {s u : State} (hi : SlotsOrdered s)
    (h : ∀ o k, u.slot o = some k → ∃ e, s.slot o = some e ∧ e.entryCycle = k.entryCycle) :
    SlotsOrdered u := by
  intro st y hy e k he hk
  obtain ⟨e', he', hec⟩ := h st e he
  obtain ⟨k', hk', hkc⟩ := h y k hk
  rw [← hec, ← hkc]
  exact hi st y hy e' k' he' hk'

theorem FetchedBefore.of_times {n : Nat} {s u : State} (hi : FetchedBefore n s)
    (h : ∀ o k, u.slot o = some k → ∃ e, s.slot o = some e ∧ e.entryCycle = k.entryCycle) :
    FetchedBefore n u := by
  intro st k hk
  obtain ⟨e, he, hec⟩ := h st k hk
  exact hec ▸ hi st e he

/-- No hook changes the time of an entry. -/
theorem hookAt_times {st o : Stage} {s : State} {e k : Entry} (i : Instr) (b : Behaviour)
    (he : s.slot st = some e) (hk : (hookAt i b st e s).slot o = some k) :
    ∃ e', s.slot o = some e' ∧ e'.entryCycle = k.entryCycle := by
  by_cases hst : o = st
  · subst hst
    refine ⟨e, he, ?_⟩
    rcases hookAt_slot i b he with ⟨h, _, _⟩ | ⟨k', h, _, _, _, _, hc, _, _⟩ |
        ⟨k', h, _, _, _, _, _, _, hc, _⟩ <;> rw [hk] at h <;> cases h
    · rfl
    · exact hc.symm
    · exact hc.symm
  · exact ⟨k, hookAt_slot_other i b st o e s hst ▸ hk, rfl⟩

/-- An entry moves past none, and a fetched one is the youngest: its time is the present cycle. -/
theorem SlotsOrdered.enter {st : Stage} {s t : State} {e : Entry} (hi : SlotsOrdered s)
    (hb : FetchedBefore s.cycle s) (h : enter st s = .hook t e) : SlotsOrdered t := by
  have ho := entry_origin h
  intro o y hy k1 k2 h1 h2
  cases ho with
  | fetched hst _ _ he hs =>
    subst hst he
    rw [hs] at h1 h2
    have hne : o ≠ .IF := by rintro rfl; cases hy
    rw [if_neg hne] at h1
    split at h2
    · cases h2
      exact hb o k1 h1
    · exact hi o y hy k1 k2 h1 h2
  | waiting _ _ hs => exact hi o y hy k1 k2 (hs ▸ h1) (hs ▸ h2)
  | moved p k hp _ hk _ he hs =>
    subst he
    rw [hs] at h1 h2
    rw [Stage.before_eq_some] at hp
    rw [Stage.mem_younger] at hy
    simp only [Stage.depth_inj] at h1 h2
    have key : ∀ {o' y' : Stage} {e1 e2 : Entry}, s.slot o' = some e1 → s.slot y' = some e2 →
        y'.depth < o'.depth → e1.entryCycle < e2.entryCycle := fun g1 g2 hlt =>
      hi _ _ (Stage.mem_younger.mpr hlt) _ _ g1 g2
    split at h1
    · cases h1
      rw [if_neg (by omega)] at h2
      split at h2
      · cases h2
      · exact key (e1 := k) hk h2 (by omega)
    · split at h1
      · cases h1
      · split at h2
        · cases h2
          exact key (e2 := k) h1 hk (by omega)
        · split at h2
          · cases h2
          · exact key h1 h2 hy

/-- Only the fetch brings in an entry of the present cycle. -/
theorem FetchedBefore.enter {n : Nat} {st : Stage} {s t : State} {e : Entry}
    (hi : FetchedBefore n s) (hn : st = .IF → s.cycle < n) (h : enter st s = .hook t e) :
    FetchedBefore n t := by
  have ho := entry_origin h
  intro o k hk
  by_cases hst : o = st
  · subst hst
    rw [ho.slot_here] at hk
    cases hk
    cases ho with
    | fetched hst _ _ he _ => subst he; exact hn hst
    | waiting h0 _ _ => exact hi o e h0
    | moved p k _ _ hk _ he _ => subst he; exact hi p k hk
  · exact hi o k (ho.slot_other_some hst hk)

/-- A turn keeps the order, and only the turn of IF brings in an entry of the present cycle. -/
theorem SlotsOrdered.turn {n : Nat} {st : Stage} {s u : State} (hr : Reached st s)
    (hi : SlotsOrdered s) (hb : FetchedBefore s.cycle s) (hn : s.cycle ≤ n)
    (hIF : st = .IF → s.cycle < n) (h : runStage st s = .next u) :
    SlotsOrdered u ∧ FetchedBefore n u := by
  have hbn : FetchedBefore n s := fun o k hk => Nat.lt_of_lt_of_le (hb o k hk) hn
  refine turn_keeps (P := fun t => SlotsOrdered t ∧ FetchedBefore n t) hr ⟨hi, hbn⟩ h
    (fun _ _ _ _ _ _ hp => ?_) (fun _ _ ht => ⟨hi.enter hb ht, hbn.enter hIF ht⟩)
    (fun _ _ i b _ hp he _ _ _ => ?_)
  · exact ⟨hp.1.of_times fun _ k hk => ⟨k, hk, rfl⟩, hp.2.of_times fun _ k hk => ⟨k, hk, rfl⟩⟩
  · exact ⟨hp.1.of_times fun _ _ => hookAt_times i b he, hp.2.of_times fun _ _ => hookAt_times i b he⟩

theorem InProgramOrder.step {s t : State} (hi : InProgramOrder s) (h : step s = .next t) :
    InProgramOrder t := by
  rw [inProgramOrder_iff] at hi ⊢
  have hcyc : t.cycle = s.cycle + 1 := (step_sameControl h).cycle
  rw [hcyc]
  refine step_induct (P := fun t => t.cycle = s.cycle + 1 ∧ SlotsOrdered t ∧ FetchedBefore t.cycle t)
    (Q := fun t => SlotsOrdered t ∧ FetchedBefore (s.cycle + 1 + 1) t) h ?_ ?_ ?_ ?_
  · refine fun _ => ⟨State.beginCycle_cycle s, fun st y hy e k he hk => ?_, fun st e he => ?_⟩
    · exact hi.1 st y hy e k (beginCycle_slot he) (beginCycle_slot hk)
    · rw [State.beginCycle_cycle]
      exact hi.2 st e (beginCycle_slot he)
  · rintro st v u hst hr ⟨hc, hord, hb⟩ hu
    have hcu := (SameControl.of_turn hr hu).cycle
    rw [hcu]
    exact ⟨hc, hord.turn hr hb (Nat.le_refl _) (fun h => absurd h hst) hu⟩
  · rintro u ⟨hc, hord, hb⟩
    exact ⟨hord, fun st e he => Nat.lt_succ_of_lt (hc ▸ hb st e he)⟩
  · rintro v u hr ⟨hc, hord, hb⟩ hu
    exact hord.turn hr hb (by omega) (fun _ => by omega) hu

/-- Settles O50: its three parts are kept each for itself. -/
theorem stepKeepsSlots : Obligations.StepKeepsSlots := fun _ _ ⟨hd, hr, ho⟩ h =>
  ⟨hd.step h, hr.step h, ho.step h⟩

/-! ## HALT (45_control.md R289) -/

theorem Entry.isHalt_iff {e : Entry} : e.isHalt = true ↔ e.ins = some .halt := beq_iff_eq

/-- While a HALT is in flight nothing is fetched, and what moves is older than it or the HALT itself. -/
theorem HaltLast.enter {st : Stage} {s t : State} {e : Entry} (hi : HaltLast s)
    (hr : Reached st s) (h : enter st s = .hook t e) : HaltLast t := by
  have hkeep := OnlySlotsDiffer.of_enter h
  have hrun : t.runState ≠ .halted := by rw [hkeep.runState, hr.1]; simp
  cases entry_origin h with
  | waiting _ _ hs => exact hs ▸ hi
  | fetched hst _ hf he hs =>
    have noHalt : ∀ o k, t.slot o = some k → k.isHalt = false := by
      intro o k hk
      rw [hs] at hk
      split at hk
      · cases hk
        rw [he]
        rfl
      · refine Bool.eq_false_iff.mpr fun hh => ?_
        have := hi.fetchStopped o k hk hh
        rw [hf] at this
        cases this
    refine ⟨fun o k hk hh => ?_, fun o k y hk hh _ => ?_, fun hh => absurd hh hrun⟩ <;>
      rw [noHalt o k hk] at hh <;> cases hh
  | moved p k hp _ hk _ he hs =>
    subst he
    rw [Stage.before_eq_some] at hp
    refine ⟨fun o m hm hh => ?_, fun o m y hm hh hy => ?_, fun hh => absurd hh hrun⟩
    · rw [hs] at hm
      rw [hkeep.fetchEnable]
      split at hm
      · cases hm
        exact hi.fetchStopped p k hk hh
      · split at hm
        · cases hm
        · exact hi.fetchStopped o m hm hh
    · have young : ∀ {o' y' m'}, s.slot o' = some m' → m'.isHalt = true → y'.depth < o'.depth →
          s.slot y' = none := fun ho hh hlt => hi.youngest _ _ _ ho hh (Stage.mem_younger.mpr hlt)
      rw [Stage.mem_younger] at hy
      rw [hs] at hm ⊢
      simp only [Stage.depth_inj] at hm ⊢
      split at hm
      · cases hm
        rw [if_neg (by omega)]
        split
        · rfl
        · exact young (m' := k) hk hh (by omega)
      · split at hm
        · cases hm
        · split
          · have := young (y' := p) hm hh (by omega)
            rw [hk] at this
            cases this
          · split
            · rfl
            · exact young hm hh hy

/-- A HALT after a hook was one before, or its fetchHook has completed now. -/
theorem hookAt_isHalt {st o : Stage} {s : State} {e k : Entry} {i : Instr} (b : Behaviour)
    (he : s.slot st = some e) (hk : (hookAt i b st e s).slot o = some k) (hh : k.isHalt = true) :
    (∃ k', s.slot o = some k' ∧ k'.isHalt = true) ∨ (o = .IF ∧ st = .IF ∧ i = .halt) := by
  by_cases hst : o = st
  · subst hst
    rw [Entry.isHalt_iff] at hh
    simp only [Entry.isHalt_iff]
    rcases hookAt_slot i b he with ⟨h, _, _⟩ | ⟨k', h, _, _, _, _, _, hins, _⟩ |
        ⟨k', h, _, _, _, _, _, _, _, hins⟩ <;> rw [hk] at h <;> cases h
    · exact Or.inl ⟨_, he, hh⟩
    · rw [hh] at hins
      split at hins
      · cases hins
        exact Or.inr ⟨‹_›, ‹_›, rfl⟩
      · exact Or.inl ⟨e, he, hins.symm⟩
    · exact Or.inl ⟨e, he, hins ▸ hh⟩
  · exact Or.inl ⟨k, hookAt_slot_other i b st o e s hst ▸ hk, hh⟩

/-- A hook keeps the claim: only the fetchHook of HALT makes a new HALT, and it stops the fetch. -/
theorem HaltLast.hook {st : Stage} {s : State} {e : Entry} {i : Instr} {b : Behaviour}
    (hi : HaltLast s) (hrun : s.runState = .running) (hb : RowOf i b) (he : s.slot st = some e)
    (hins : entryInstr st e = some i) : HaltLast (hookAt i b st e s) := by
  refine ⟨fun o k hk hh => ?_, fun o k y hk hh hy => ?_, fun hhalt => ?_⟩
  · rw [hb.hookAt_fetchEnable]
    split
    · rfl
    · rename_i hn
      rcases hookAt_isHalt b he hk hh with ⟨k', hk', hh'⟩ | ⟨_, hst, hhalt⟩
      · exact hi.fetchStopped o k' hk' hh'
      · exact absurd ⟨hst, hhalt⟩ hn
  · rcases hookAt_isHalt b he hk hh with ⟨k', hk', hh'⟩ | ⟨rfl, _, _⟩
    · have hnone := hi.youngest o k' y hk' hh' hy
      have hyst : y ≠ st := by
        rintro rfl
        rw [he] at hnone
        cases hnone
      rw [hookAt_slot_other i b st y e s hyst, hnone]
    · cases hy
  · rcases hookAt_slot i b he with ⟨_, hr, _⟩ | ⟨_, _, _, hr, _, _, _, _, _⟩ |
        ⟨k, h, hst, hhalts, _, _, _, _, _, hki⟩
    · rcases hr with ⟨hr, _⟩ | hr <;> rw [hr] at hhalt
      · rw [hrun] at hhalt; cases hhalt
      · cases hhalt
    · rw [hr, hrun] at hhalt
      cases hhalt
    · subst hst
      refine ⟨k, h, Entry.isHalt_iff.mpr ?_⟩
      have hi : i = .halt := of_decide_eq_true (hb.halts ▸ hhalts)
      rw [hki, ← hi]
      exact hins

theorem HaltLast.takeFault {s : State} (hi : HaltLast s) (k : FaultKind) (ia addr : Word) (n : Nat)
    (w : IWord) : HaltLast (s.takeFault k ia addr n w) :=
  ⟨fun o e he hh => hi.fetchStopped o e he hh, fun o e y he hh hy => hi.youngest o e y he hh hy,
    nofun⟩

theorem HaltLast.turn {st : Stage} {s u : State} (hr : Reached st s) (hi : HaltLast s)
    (h : runStage st s = .next u) : HaltLast u :=
  turn_keeps hr hi h (fun _ _ _ _ _ _ hp => hp.takeFault ..) (fun _ _ ht => hi.enter hr ht)
    (fun _ _ _ _ hrun hp he _ hins hb => hp.hook hrun hb he hins)

theorem HaltLast.beginCycle {s : State} (hi : HaltLast s) : HaltLast s.beginCycle := by
  refine ⟨fun o e he hh => hi.fetchStopped o e (beginCycle_slot he) hh, fun o e y he hh hy => ?_,
    nofun⟩
  exact beginCycle_slot_none (hi.youngest o e y (beginCycle_slot he) hh hy)

theorem HaltLast.step {s t : State} (hi : HaltLast s) (h : step s = .next t) : HaltLast t :=
  step_keeps h (fun _ => hi.beginCycle) fun _ _ _ hr hp hu => hp.turn hr hu

/-- Settles O51: nothing is fetched while a HALT is in flight, and only a HALT in WB halts the run. -/
theorem stepKeepsHaltLast : Obligations.StepKeepsHaltLast := fun _ _ _ hi h => hi.step h

/-! ## The memories (20_memory.md R61, R64) -/

/-- An access that is performed lies in DMEM (R69, R70). -/
theorem State.checkAccess_ok {s : State} {ea : Word} {n : Nat} (h : s.checkAccess ea n = .ok) :
    ea.toNat + n ≤ s.params.dmemBytes := by
  by_contra hr
  by_cases ha : ea.toNat % n = 0
  · rw [State.checkAccess_outOfRange ha (by omega)] at h
    cases h
  · rw [State.checkAccess_misaligned ha] at h
    cases h

/-- Both memories canonical and inside their sizes. -/
def MemoriesGood (s : State) : Prop := MemoriesCanonical s ∧ MemoriesInRange s

/-- The claim is about the memories and the sizes only. -/
theorem MemoriesGood.congr {s u : State} (hi : MemoriesGood s) (himem : u.imem = s.imem)
    (hdmem : u.dmem = s.dmem) (hparams : u.params = s.params) : MemoriesGood u := by
  unfold MemoriesGood MemoriesCanonical MemoriesInRange
  rw [himem, hdmem, hparams]
  exact hi

/-- A hook writes DMEM only by a store whose bytes lie in it. -/
theorem MemoriesGood.hook {s : State} (hi : MemoriesGood s) (i : Instr) (b : Behaviour) (st : Stage)
    (e : Entry) : MemoriesGood (hookAt i b st e s) := by
  have hc := SameControl.of_hook i b st e s
  rcases hookAt_dmem i b st e s with hd | ⟨_, n, _, hok, hd⟩
  · exact hi.congr hc.imem hd hc.params
  · obtain ⟨⟨hci, hcd⟩, hri, hrd⟩ := hi
    unfold MemoriesGood MemoriesCanonical MemoriesInRange
    rw [hc.imem, hd, hc.params]
    refine ⟨⟨hci, Memory.wf_writeBytes hcd _ _ _⟩, hri, fun c hcell => ?_⟩
    rcases Memory.mem_writeBytes hcell with h | ⟨_, h⟩
    · exact hrd c h
    · exact Nat.lt_of_lt_of_le h (State.checkAccess_ok hok)

theorem MemoriesGood.turn {st : Stage} {s u : State} (hr : Reached st s) (hi : MemoriesGood s)
    (h : runStage st s = .next u) : MemoriesGood u :=
  turn_keeps hr hi h (fun _ _ _ _ _ _ hp => hp.congr rfl rfl rfl)
    (fun _ _ ht =>
      have hc := SameControl.of_enter ht
      hi.congr hc.imem (OnlySlotsDiffer.of_enter ht).dmem hc.params)
    (fun _ e i b _ hp _ _ _ _ => hp.hook i b st e)

theorem MemoriesGood.step {s t : State} (hi : MemoriesGood s) (h : step s = .next t) :
    MemoriesGood t :=
  step_keeps h (fun _ => hi.congr rfl rfl rfl) fun _ _ _ hr hp hu => hp.turn hr hu

/-! ## The whole invariant -/

/-- Settles O54: each part of the invariant is kept for itself. -/
theorem stepKeepsInv : Obligations.StepKeepsInv := by
  intro s t hi h
  obtain ⟨hcanonical, hrange⟩ := MemoriesGood.step ⟨hi.memories, hi.ranges⟩ h
  exact
    { memories := hcanonical
      ranges := hrange
      semaphores := stepKeepsSemaphores s t hi.semaphores h
      decoded := hi.decoded.step h
      regular := hi.regular.step h
      ordered := hi.ordered.step h
      halt := hi.halt.step h
      fault := stepKeepsFaultRecord s t hi.fault h }

end Sys2Proof.Machine
end

section
/-!
Data accesses. The checks of an access and what the memoryHook does by their outcome, the bytes a load reads,
and from these the memoryHook of every instruction (O37) and what it leaves in the memories (O40).
-/

namespace Sys2Proof.Machine

/-! ## The checks of an access (20_memory.md R68 to R70, R80) -/

/-- An access is performed exactly where it passes its three checks. -/
theorem State.checkAccess_ok_iff {s : State} {ea : Word} {n : Nat} :
    s.checkAccess ea n = .ok ↔ s.Accessible ea n := by
  refine ⟨fun h => ?_, State.checkAccess_accessible⟩
  have hr := State.checkAccess_ok h
  have ha : ea.toNat % n = 0 := by
    by_contra ha
    rw [State.checkAccess_misaligned ha] at h
    cases h
  refine ⟨ha, hr, ?_⟩
  rw [State.checkAccess_port ha hr] at h
  cases hp : s.portBusy with
  | false => rfl
  | true => rw [hp] at h; cases h

section
variable {n : Nat} {e : Entry} {s : State} (access : State)

theorem withAccess_misaligned (ha : e.ea.toNat % n ≠ 0) :
    withAccess n e s access = s.takeFault .alignmentFault e.ia e.ea n e.word :=
  withAccess_of_check (State.checkAccess_misaligned ha)

theorem withAccess_outOfRange (ha : e.ea.toNat % n = 0)
    (hr : s.params.dmemBytes < e.ea.toNat + n) :
    withAccess n e s access = s.takeFault .addressFault e.ia e.ea 0 e.word :=
  withAccess_of_check (State.checkAccess_outOfRange ha hr)

theorem withAccess_busy (ha : e.ea.toNat % n = 0) (hr : e.ea.toNat + n ≤ s.params.dmemBytes)
    (hp : s.portBusy = true) : withAccess n e s access = s.stall .structural :=
  withAccess_of_check (by rw [State.checkAccess_port ha hr, if_pos hp])

theorem withAccess_accessible (h : s.Accessible e.ea n) : withAccess n e s access = access :=
  withAccess_of_check (State.checkAccess_accessible h)

end

/-! ## The memoryHook by the kind of its access (40_stage_hooks.md R130) -/

/-- The memoryHook accesses `n` bytes of data memory. -/
def MemAction.Accesses (a : MemAction) (n : Nat) : Prop := a.loadWidth = some n ∨ a.storeWidth = some n

theorem MemAction.storeWidth_eq_some {a : MemAction} {n : Nat} :
    a.storeWidth = some n ↔ a = .store n := by
  cases a <;> simp [MemAction.storeWidth]

theorem MemAction.eq_nothing {a : MemAction} (hl : a.loadWidth = none) (hs : a.storeWidth = none) :
    a = .nothing := by
  cases a
  case nothing => rfl
  case load => cases hl
  case store => cases hs

/-- Loads and stores meet the same checks before they differ. -/
theorem memoryHook_checks {b : Behaviour} {n : Nat} (h : b.memory.Accesses n) (e : Entry)
    (s : State) : ∃ access, memoryHook b e s = withAccess n e s access := by
  unfold memoryHook
  cases hm : b.memory <;> simp only [MemAction.Accesses, hm] at h
  case nothing => rcases h with h | h <;> cases h
  case load n' x =>
    rcases h with h | h <;> cases h
    exact ⟨_, rfl⟩
  case store n' =>
    rcases h with h | h <;> cases h
    exact ⟨_, rfl⟩

/-- The row of a load or store accesses as many bytes as the table says (20_memory.md R71). -/
theorem RowOf.accesses {i : Instr} {b : Behaviour} (hb : RowOf i b) {n : Nat}
    (h : loadWidthOf i = some n ∨ storeWidthOf i = some n) : b.memory.Accesses n := by
  rw [← hb.loads, ← hb.stores] at h
  exact h

/-! ## The bytes of a load (20_memory.md R65, R66, 44_loadstore.md R265) -/

theorem toNat_append_eq_add {v w : Nat} (x : BitVec v) (y : BitVec w) :
    (x ++ y).toNat = y.toNat + x.toNat * 2 ^ w := by
  rw [BitVec.toNat_append, ← Nat.shiftLeft_add_eq_or_of_lt y.isLt, Nat.shiftLeft_eq, Nat.add_comm]

/-- A read of `k + n` bytes is one of the low `k` and one of the `n` above them. -/
theorem Memory.readBytes_add (m : Memory 8) (a k n : Nat) : Memory.readBytes m a (k + n) =
    Memory.readBytes m a k + Memory.readBytes m (a + k) n * 256 ^ k := by
  induction n with
  | zero => simp [Memory.readBytes]
  | succ n ih =>
    rw [← Nat.add_assoc k, Memory.readBytes, Memory.readBytes, ih, Nat.add_assoc a, pow_add]
    ring

/-- Bytes joined, the higher ones in front, read as the bytes at their addresses (R65). -/
theorem readBytes_append {m : Memory 8} {a k n v : Nat} {hi : BitVec v} {lo : BitVec (8 * k)}
    (hhi : Memory.readBytes m (a + k) n = hi.toNat) (hlo : Memory.readBytes m a k = lo.toNat) :
    Memory.readBytes m a (k + n) = (hi ++ lo).toNat := by
  rw [Memory.readBytes_add, hhi, hlo, toNat_append_eq_add, pow_mul]
  norm_num

section
variable (s : State) (a : Nat)

theorem readBytes_one : Memory.readBytes s.dmem a 1 = (s.dmemByte a).toNat := by
  simp [Memory.readBytes, State.dmemByte]

theorem readBytes_two : Memory.readBytes s.dmem a 2 = (s.halfAt a).toNat :=
  readBytes_append (k := 1) (readBytes_one s (a + 1)) (readBytes_one s a)

theorem readBytes_four : Memory.readBytes s.dmem a 4 = (s.wordAt a).toNat :=
  readBytes_append (k := 1) (readBytes_append (k := 1) (readBytes_two s (a + 2))
    (readBytes_one s (a + 1))) (readBytes_one s a)

theorem readBytes_eight : Memory.readBytes s.dmem a 8 = (s.doubleAt a).toNat :=
  readBytes_append (k := 1) (readBytes_append (k := 1) (readBytes_append (k := 1)
    (readBytes_append (k := 1) (readBytes_four s (a + 4)) (readBytes_one s (a + 3)))
    (readBytes_one s (a + 2))) (readBytes_one s (a + 1))) (readBytes_one s a)

end

theorem LoadExt.extend_signed_toNat {n : Nat} (v : BitVec (8 * n)) :
    LoadExt.signed.extend n v.toNat = v.signExtend 64 := by
  simp [LoadExt.extend, sextFrom]

theorem LoadExt.extend_zero_toNat {n : Nat} (v : BitVec (8 * n)) :
    LoadExt.zero.extend n v.toNat = v.setWidth 64 := by
  simp [LoadExt.extend]

/-- The row of a load has the width of R71 and extends its bytes as R250 to R256 and R327 say. -/
theorem load_row {i : Instr} {n : Nat} (h : loadWidthOf i = some n) :
    ∃ b ext, RowOf i b ∧ b.memory = .load n ext ∧
      ∀ (s : State) (a : Nat), s.loadedBy i a = some (ext.extend n (Memory.readBytes s.dmem a n)) := by
  cases i <;> cases h <;>
    refine ⟨_, _, ⟨fun _ => rfl, rfl, rfl, rfl, rfl, rfl, rfl, rfl, fun _ _ _ => rfl⟩, rfl,
      fun s a => congrArg some ?_⟩
  case lb.refl => rw [readBytes_one]; exact (LoadExt.extend_signed_toNat (n := 1) _).symm
  case lbu.refl => rw [readBytes_one]; exact (LoadExt.extend_zero_toNat (n := 1) _).symm
  case lh.refl => rw [readBytes_two]; exact (LoadExt.extend_signed_toNat (n := 2) _).symm
  case lhu.refl => rw [readBytes_two]; exact (LoadExt.extend_zero_toNat (n := 2) _).symm
  case lw.refl => rw [readBytes_four]; exact (LoadExt.extend_signed_toNat (n := 4) _).symm
  case lwu.refl => rw [readBytes_four]; exact (LoadExt.extend_zero_toNat (n := 4) _).symm
  case ld.refl | ldc1.refl =>
    rw [readBytes_eight]
    exact ((LoadExt.extend_zero_toNat (n := 8) _).trans (BitVec.setWidth_eq _)).symm

/-! ## The memoryHook of every instruction -/

/-- An instruction that is no load and no store only completes its memoryHook. -/
theorem RowOf.memoryHook_idle {i : Instr} {b : Behaviour} (hb : RowOf i b) (hl : loadWidthOf i = none)
    (hs : storeWidthOf i = none) (e : Entry) (s : State) :
    memoryHook b e s = s.completeAt .MEM e := by
  unfold memoryHook
  rw [MemAction.eq_nothing (hb.loads.trans hl) (hb.stores.trans hs)]

theorem memoryHook_load {b : Behaviour} {n : Nat} {ext : LoadExt} (hm : b.memory = .load n ext)
    {e : Entry} {s : State} (h : s.Accessible e.ea n) :
    memoryHook b e s = s.completeAt .MEM
      { e with res := ext.extend n (s.memRead e.ea n), resValid := true } := by
  unfold memoryHook
  rw [hm]
  exact withAccess_accessible _ h

theorem memoryHook_store {b : Behaviour} {n : Nat} (hm : b.memory = .store n) {e : Entry} {s : State}
    (h : s.Accessible e.ea n) : memoryHook b e s = (s.memWrite e.ea n e.b).completeAt .MEM e := by
  unfold memoryHook
  rw [hm]
  exact withAccess_accessible _ h

/-- A store into canonical memory stores its bytes and no others (20_memory.md R67). -/
theorem StoredBytes.of_dmem {s t : State} {ea : Word} {n : Nat} {v : Word} (hc : MemoriesCanonical s)
    (ht : t.dmem = Memory.writeBytes s.dmem ea.toNat v n) : StoredBytes s t ea n v := by
  unfold StoredBytes State.dmemByte
  rw [ht]
  exact ⟨Memory.read_writeBytes_in hc.2 _ _ _, Memory.read_writeBytes_other _ _ _ _⟩

/-- Settles O37: the memoryHook of a load or store is its checks and then its access; the load's bytes
are those of its row. -/
theorem memoryHookRule : Obligations.MemoryHookRule := by
  intro i s e hdue
  obtain ⟨b, hb⟩ := exec_row i
  refine ⟨fun hl hs => ?_, fun n hn => ?_, fun n v hl hacc hv => ?_, fun n hs hacc hcan => ?_⟩
  · rw [hb.exec_due hdue, hookAt, hb.memoryHook_idle hl hs]
    rfl
  · obtain ⟨access, hm⟩ := memoryHook_checks (hb.accesses hn) e s
    rw [hb.exec_due hdue, hookAt, hm]
    exact ⟨fun ha => congrArg _ (withAccess_misaligned access ha),
      fun ha hr => congrArg _ (withAccess_outOfRange access ha hr),
      fun ha hr hp => congrArg _ (withAccess_busy access ha hr hp)⟩
  · obtain ⟨b, ext, hb, hm, hload⟩ := load_row hl
    obtain rfl := Option.some.inj ((hload s e.ea.toNat).symm.trans hv)
    rw [hb.exec_due hdue, hookAt, memoryHook_load hm hacc]
    rfl
  · have hm := MemAction.storeWidth_eq_some.mp (hb.stores.trans hs)
    rw [hb.exec_due hdue, hookAt, memoryHook_store hm hacc]
    exact ⟨_, rfl, .of_dmem hcan rfl, rfl⟩

/-- A hook leaves data memory, or it is the memoryHook of a store that passed its checks. -/
theorem RowOf.hook_writes_dmem {i : Instr} {b : Behaviour} (hb : RowOf i b) (st : Stage) (e : Entry)
    (s : State) : (hookAt i b st e s).dmem = s.dmem ∨
      st = .MEM ∧ ∃ n, storeWidthOf i = some n ∧ s.Accessible e.ea n ∧
        (hookAt i b st e s).dmem = Memory.writeBytes s.dmem e.ea.toNat e.b n := by
  rcases hookAt_dmem i b st e s with h | ⟨hst, n, hn, hok, h⟩
  · exact .inl h
  · exact .inr ⟨hst, n, hb.store hn, State.checkAccess_ok_iff.mp hok, h⟩

/-- Settles O40: only the memoryHook of a store that passed its checks writes, and it writes its own
bytes. -/
theorem memoryChangesByStoresOnly : Obligations.MemoryChangesByStoresOnly := by
  intro i s t h
  obtain ⟨b, st, e, hb, hdue, rfl⟩ := exec_next h
  refine ⟨(SameControl.of_hook i b st e s).imem, ?_⟩
  rcases hb.hook_writes_dmem st e s with hd | ⟨rfl, n, hn, hacc, hd⟩
  · exact ⟨fun _ => hd, fun _ _ _ _ => ⟨fun _ => hd, fun a _ => congrArg (Memory.read · a) hd⟩,
      fun _ => hd⟩
  · refine ⟨fun hnone => ?_, fun e' he' n' hn' => ?_, fun hno => absurd hdue (hno e)⟩
    · rw [hn] at hnone; cases hnone
    · rw [hdue] at he'; cases he'
      rw [hn] at hn'; cases hn'
      refine ⟨fun hna => absurd hacc hna, fun a ha => ?_⟩
      unfold State.dmemByte
      rw [hd, Memory.read_writeBytes_other _ _ _ _ _ ha]

end Sys2Proof.Machine
end

section
/-!
A load or store alone in the pipeline that stops in its memoryHook: a fault (O22) or a busy port (O23).
-/

namespace Sys2Proof.Machine

/-! ## Loads and stores and their rows -/

/-- `i` is a load or store of `n` bytes with base `x[rs]` and offset `imm` (44_loadstore.md R250 to R260,
46_fpu.md R327, R328). -/
def IsAccess (i : Instr) (rs : RegIdx) (imm n : Nat) : Prop :=
  ∃ rt, (i = .lb rt imm rs ∨ i = .lbu rt imm rs ∨ i = .sb rt imm rs) ∧ n = 1 ∨
    (i = .lh rt imm rs ∨ i = .lhu rt imm rs ∨ i = .sh rt imm rs) ∧ n = 2 ∨
    (i = .lw rt imm rs ∨ i = .lwu rt imm rs ∨ i = .sw rt imm rs) ∧ n = 4 ∨
    (i = .ld rt imm rs ∨ i = .sd rt imm rs ∨ i = .ldc1 rt imm rs ∨ i = .sdc1 rt imm rs) ∧ n = 8

/-- What the rows of loads and stores have in common: the address is computed in EX from the first
source, and the access is in MEM (44_loadstore.md R261 to R263). -/
structure AccessRow (i : Instr) (b : Behaviour) (rs : RegIdx) (imm n : Nat) : Prop where
  row : RowOf i b
  noFetchSource : b.ifSources = []
  base : b.idSources.head? = some (.x rs)
  address : ∀ e, b.execute e = .address (effectiveAddress e.a imm)
  accesses : b.memory.Accesses n
  staysOn : ∀ ia vs, b.target ia vs = none
  runsOn : b.halts = false

theorem AccessRow.of_loadRow {i : Instr} {rs : RegIdx} {imm n : Nat} (dst : RegRef) (ext : LoadExt)
    (h : RowOf i (loadRow dst imm rs n ext) := by
      exact ⟨fun _ => rfl, rfl, rfl, rfl, rfl, rfl, rfl, rfl, fun _ _ _ => rfl⟩) :
    AccessRow i (loadRow dst imm rs n ext) rs imm n :=
  ⟨h, rfl, rfl, fun _ => rfl, .inl rfl, fun _ _ => rfl, rfl⟩

theorem AccessRow.of_storeRow {i : Instr} {rs : RegIdx} {imm n : Nat} (data : RegRef)
    (h : RowOf i (storeRow data imm rs n) := by
      exact ⟨fun _ => rfl, rfl, rfl, rfl, rfl, rfl, rfl, rfl, fun _ _ _ => rfl⟩) :
    AccessRow i (storeRow data imm rs n) rs imm n :=
  ⟨h, rfl, rfl, fun _ => rfl, .inr rfl, fun _ _ => rfl, rfl⟩

theorem IsAccess.row {i : Instr} {rs : RegIdx} {imm n : Nat} (h : IsAccess i rs imm n) :
    ∃ b, AccessRow i b rs imm n := by
  obtain ⟨rt, ⟨h, rfl⟩ | ⟨h, rfl⟩ | ⟨h, rfl⟩ | ⟨h, rfl⟩⟩ := h
  case inr.inr.inr =>
    obtain rfl | rfl | rfl | rfl := h
    exacts [⟨_, .of_loadRow (.x rt) .zero⟩, ⟨_, .of_storeRow (.x rt)⟩,
      ⟨_, .of_loadRow (.f rt) .zero⟩, ⟨_, .of_storeRow (.f rt)⟩]
  all_goals
    obtain rfl | rfl | rfl := h
    exacts [⟨_, .of_loadRow (.x rt) .signed⟩, ⟨_, .of_loadRow (.x rt) .zero⟩,
      ⟨_, .of_storeRow (.x rt)⟩]

/-! ## Stopping in MEM -/

@[simp] theorem State.withClaim_stalls (s : State) (i : Instr) : (s.withClaim i).stalls = s.stalls := by
  unfold State.withClaim
  cases claimedOf i <;> simp

/-- What the checks of an access read is that of the state the instruction started from. -/
theorem aloneIn_params (b : Behaviour) (s : State) (st : Stage) (e : Entry) (pc : Word) (fe : Bool) :
    (aloneIn b s st e pc fe).params = s.params :=
  State.claimDst_params s _

theorem aloneIn_portBusy (b : Behaviour) (s : State) (st : Stage) (e : Entry) (pc : Word)
    (fe : Bool) : (aloneIn b s st e pc fe).portBusy = s.portBusy := by
  unfold State.portBusy aloneIn
  rw [State.withFront, State.claimDst_dmemBusy, State.claimDst_cycle]

/-- Of the state a stopped run is compared with only the fields beside the slots matter. -/
theorem StopsInMemAs.of_drained {i : Instr} {s u v : State} (h : StopsInMemAs i s u)
    (hd : u.drained = v.drained) : StopsInMemAs i s v := by
  obtain ⟨s1, s2, s3, t, h1, h2, h3, h4, hs, hh, ht⟩ := h
  exact ⟨s1, s2, s3, t, h1, h2, h3, h4, hs, hh, ht.trans hd⟩

theorem AccessRow.unhindered {i : Instr} {b : Behaviour} {rs : RegIdx} {imm n : Nat} {s : State}
    (h : AccessRow i b rs imm n) (hsrc : s.free (idSourcesOf i))
    (hdst : ∀ d, claimedOf i = some d → s.sem d = 0) : b.Unhindered s := by
  refine ⟨?_, ?_, ?_⟩
  · rw [h.noFetchSource]; exact nofun
  · rw [h.row.idSources]; exact hsrc
  · rw [h.row.claimed]; exact hdst

/-- An access alone whose memoryHook is an update `stop` of other fields than the slots, a stall or a
fault: it stops in MEM, with the pc advanced and its destination claimed. -/
theorem AccessRow.stops {i : Instr} {b : Behaviour} {rs : RegIdx} {imm n : Nat} {s : State}
    (h : AccessRow i b rs imm n) (hu : b.Unhindered s) (stop : State → State)
    (hslots : ∀ t, (stop t).slots = t.slots) (hdrained : ∀ t, (stop t).drained = stop t.drained)
    (hstop : ∀ (e : Entry) (t access : State), e.ia = s.pc → e.word = encode i →
      e.ea = effectiveAddress (s.readX rs) imm → t.params = s.params → t.portBusy = s.portBusy →
      withAccess n e t access = stop t) :
    StopsInMemAs i s (stop (s.advanced.withClaim i)) := by
  have ha : (decodedAlone i b s).a = s.readX rs := by
    obtain ⟨rest, hrest⟩ := List.head?_eq_some_iff.mp h.base
    simp [decodedAlone, latch, hrest, State.readReg]
  have hx : b.execute (decodedAlone i b s) = .address (effectiveAddress (s.readX rs) imm) := by
    rw [h.address, ha]
  obtain ⟨access, hm⟩ := memoryHook_checks h.accesses
    { decodedAlone i b s with ea := effectiveAddress (s.readX rs) imm }
    (aloneIn b s .MEM { decodedAlone i b s with ea := effectiveAddress (s.readX rs) imm }
      (b.pcAfter s) (b.fetchAfter s))
  have hstopped := hm.trans
    (hstop _ _ access rfl rfl rfl (aloneIn_params ..) (aloneIn_portBusy ..))
  refine (stops_in_mem h.row hu hx hstopped (hslots _)).of_drained ?_
  rw [hdrained, aloneIn_drained h.row hu h.runsOn h.staysOn, ← hdrained]

/-- Settles O22: the checks of an access read its address, the sizes and the port only, so they fail
alone as the rule of the memoryHook says. -/
theorem accessFaults : Obligations.AccessFaults := by
  intro s i rs imm n hi hsrc hdst ea
  obtain ⟨b, hb⟩ := IsAccess.row hi
  have hu := hb.unhindered hsrc hdst
  constructor
  · intro ha
    refine hb.stops hu (·.takeFault .alignmentFault s.pc ea n (encode i)) (fun _ => rfl)
      (fun _ => rfl) fun e t access hia hword hea _ _ => ?_
    rw [withAccess_misaligned access (hea ▸ ha), hia, hword, hea]
    rfl
  · intro ha hr
    refine hb.stops hu (·.takeFault .addressFault s.pc ea 0 (encode i)) (fun _ => rfl)
      (fun _ => rfl) fun e t access hia hword hea hp _ => ?_
    rw [withAccess_outOfRange access (hea ▸ ha) (hea ▸ hp ▸ hr), hia, hword, hea]
    rfl

/-- Settles O23: past alignment and range the busy port stalls, as `AccessRow.stops` has it. -/
theorem busyPortStalls : Obligations.BusyPortStalls := by
  intro s i rs imm n hi hsrc hdst ea ha hr hbusy
  obtain ⟨b, hb⟩ := IsAccess.row hi
  have h := hb.stops (hb.unhindered hsrc hdst) (·.stall .structural) (fun _ => rfl) (fun _ => rfl)
    fun e t access _ _ hea hp hport =>
      withAccess_busy access (hea ▸ ha) (hea ▸ hp ▸ hr) (hport.trans hbusy)
  rw [State.stall, State.withClaim_stalls] at h
  exact h

end Sys2Proof.Machine
end

section
/-!
The fetch that faults (O6), the memories along a step (O53) and loadProgram (O59).
-/

namespace Sys2Proof.Machine

/-! ## A fetch that faults (20_memory.md R63) -/

/-- The loop over the stages `front` answered `t`, and in `t` it goes on from each of them: then none of
its turns was the last one, and the loop over more stages goes on from `t`. -/
theorem loopFrom_append {front : List Stage} (back : List Stage) {s t : State}
    (h : loopFrom front s = .next t) (hgo : ∀ st ∈ front, goesOn st t = true) :
    loopFrom (front ++ back) s = loopFrom back t := by
  induction front generalizing s with
  | nil => cases h; rfl
  | cons st rest ih =>
    obtain ⟨u, hu, ⟨hg, h⟩ | ⟨hg, rfl⟩⟩ := loop_turn h
    · rw [List.cons_append, loopFrom, hu]
      simp only [hg, if_true]
      exact ih h fun o ho => hgo o (List.mem_cons_of_mem _ ho)
    · rw [hgo st List.mem_cons_self] at hg
      cases hg

/-- After the last stage of the loop there is nothing to go on to. -/
theorem loopFrom_last {st : Stage} {s u : State} (h : runStage st s = .next u) :
    loopFrom [st] s = .next u := by
  rw [loopFrom, h]
  simp [loopFrom]

theorem goesOn_of_doneAt {st : Stage} {s : State} (hr : s.runState = .running) (hd : s.doneAt st) :
    goesOn st s = true := by
  unfold goesOn
  rw [hr]
  cases hs : s.slot st with
  | none => rfl
  | some e => exact hd e hs

/-- A step whose older stages are all done in `t` ends with the turn of IF in `t`. -/
theorem step_of_turn_IF {s t u : State} (ha : s.runState.accepts = true)
    (h : loopFrom [.WB, .MEM, .EX, .ID] s.beginCycle = .next t) (hr : t.runState = .running)
    (hdone : ∀ st ∈ [Stage.WB, .MEM, .EX, .ID], t.doneAt st) (hu : runStage .IF t = .next u) :
    step s = .next u := by
  unfold step stepCall
  rw [if_pos ha]
  exact (loopFrom_append [.IF] h fun st hst => goesOn_of_doneAt hr (hdone st hst)).trans
    (loopFrom_last hu)

/-- With IF empty and the fetch enabled the turn of IF is `Fetch()`. -/
theorem runStage_fetchFault {s u : State} (h0 : s.slot .IF = none) (hf : s.fetchEnable = true)
    (h : fetch s = .fetchFault u) : runStage .IF s = .next u := by
  have he : enter .IF s = .fetchFault u := by
    unfold enter
    rw [h0]
    simpa [Stage.before, hf] using h
  unfold runStage
  rw [he]

theorem fetch_misaligned {s : State} (ha : s.pc.toNat % 4 ≠ 0) :
    fetch s = .fetchFault (s.takeFault .alignmentFault s.pc s.pc 4 0#32) := by
  simp [fetch, aligned, ha]

theorem fetch_outside {s : State} (ha : s.pc.toNat % 4 = 0)
    (hr : s.params.imemBytes < s.pc.toNat + 4) :
    fetch s = .fetchFault (s.takeFault .addressFault s.pc s.pc 0 0#32) := by
  simp [fetch, aligned, inRange, ha, hr]

/-- Settles O6: the step ends with the turn of IF, which is a fetch that fails its first or its second
check. -/
theorem fetchFaults : Obligations.FetchFaults := by
  intro s t hacc hloop hrun hWB hMEM hEX hID h0 hf
  have hdone : ∀ st ∈ [Stage.WB, .MEM, .EX, .ID], t.doneAt st := by
    simp [hWB, hMEM, hEX, hID]
  exact ⟨fun ha => step_of_turn_IF hacc hloop hrun hdone
      (runStage_fetchFault h0 hf (fetch_misaligned ha)),
    fun ha hr => step_of_turn_IF hacc hloop hrun hdone
      (runStage_fetchFault h0 hf (fetch_outside ha hr))⟩

/-- Settles O53: the invariant of the memories by itself, as O54 uses it. -/
theorem stepKeepsMemories : Obligations.StepKeepsMemories := fun _ _ hi h => MemoriesGood.step hi h

/-! ## loadProgram (20_memory.md R81) -/

section
variable {w : Nat}

theorem Memory.ofImage_concat (image : List (Nat × BitVec w)) (c : Nat × BitVec w) :
    Memory.ofImage (image ++ [c]) = Memory.write (Memory.ofImage image) c.1 c.2 := by
  simp [Memory.ofImage]

/-- A location the image does not mention reads 0. -/
theorem Memory.read_ofImage_unmentioned {image : List (Nat × BitVec w)} {a : Nat}
    (h : ∀ c ∈ image, c.1 ≠ a) : Memory.read (Memory.ofImage image) a = 0#w := by
  induction image using List.reverseRecOn with
  | nil => rfl
  | append_singleton image c ih =>
    rw [Memory.ofImage_concat, Memory.read_write_other _ (h c (by simp))]
    exact ih fun d hd => h d (by simp [hd])

/-- A location an image with distinct addresses mentions reads its value: no later pair writes there. -/
theorem Memory.read_ofImage_mentioned {image : List (Nat × BitVec w)}
    (hn : (image.map Prod.fst).Nodup) {c : Nat × BitVec w} (hc : c ∈ image) :
    Memory.read (Memory.ofImage image) c.1 = c.2 := by
  induction image using List.reverseRecOn with
  | nil => cases hc
  | append_singleton image d ih =>
    rw [List.map_append, List.nodup_append] at hn
    obtain ⟨hnimage, _, hfresh⟩ := hn
    rw [Memory.ofImage_concat]
    rcases List.mem_append.mp hc with hc | hc
    · have hne : d.1 ≠ c.1 :=
        (hfresh c.1 (List.mem_map_of_mem hc) d.1 (by simp)).symm
      rw [Memory.read_write_other _ hne, ih hnimage hc]
    · obtain rfl := List.mem_singleton.mp hc
      exact Memory.read_write_same (Memory.wf_ofImage image) _ _

end

theorem RunState.loadable_iff {r : RunState} : r.loadable = true ↔ r ≠ .running := by
  cases r <;> simp [RunState.loadable]

/-- Settles O59: the image is written pair by pair into empty memories. -/
theorem loadProgramRule : Obligations.LoadProgramRule := by
  intro s im
  refine ⟨fun hr => ?_, fun hr hfits => ?_, fun hr hfits => ?_⟩
  · simp [State.loadProgram, hr, RunState.loadable]
  · simp [State.loadProgram, RunState.loadable_iff.mpr hr, hfits]
  · refine ⟨{ s with imem := Memory.ofImage im.imem, dmem := Memory.ofImage im.dmem }, ?_, rfl,
      fun _ => Memory.read_ofImage_unmentioned, fun _ => Memory.read_ofImage_unmentioned,
      fun hn _ => Memory.read_ofImage_mentioned hn, fun hn _ => Memory.read_ofImage_mentioned hn⟩
    simp [State.loadProgram, RunState.loadable_iff.mpr hr, hfits]

end Sys2Proof.Machine
end

section
/-!
The fields of a word (30_encoding.md R91, R92). What a word holds is said field by field: `Layout.HeldIn`
says that a number holds every field of a layout, `Layout.FixedIn` that it holds the fixed ones. Here
these are tied to the packed number (`Layout.heldIn_iff`) and to mask and match
(`Layout.and_mask_eq_mtch_iff`).
-/

namespace Sys2Proof

variable {n : Nat}

/-! ## Fields as numbers -/

theorem bitsAt_lt (n lo len : Nat) : bitsAt n lo len < 2 ^ len := Nat.mod_lt _ (Nat.two_pow_pos len)

theorem bitsAt_and (a b lo len : Nat) :
    bitsAt (a &&& b) lo len = bitsAt a lo len &&& bitsAt b lo len := by
  simp only [bitsAt, Nat.and_div_two_pow, Nat.and_mod_two_pow]

/-- A mask that covers a whole field keeps it. -/
theorem bitsAt_and_ones (n lo len : Nat) : bitsAt n lo len &&& (2 ^ len - 1) = bitsAt n lo len := by
  rw [Nat.and_two_pow_sub_one_eq_mod, Nat.mod_eq_of_lt (bitsAt_lt n lo len)]

@[simp] theorem opField_and_ones (n : Nat) : opField n &&& 63 = opField n := bitsAt_and_ones n 26 6
@[simp] theorem rsField_and_ones (n : Nat) : rsField n &&& 31 = rsField n := bitsAt_and_ones n 21 5
@[simp] theorem rtField_and_ones (n : Nat) : rtField n &&& 31 = rtField n := bitsAt_and_ones n 16 5
@[simp] theorem rdField_and_ones (n : Nat) : rdField n &&& 31 = rdField n := bitsAt_and_ones n 11 5
@[simp] theorem saField_and_ones (n : Nat) : saField n &&& 31 = saField n := bitsAt_and_ones n 6 5
@[simp] theorem functField_and_ones (n : Nat) : functField n &&& 63 = functField n :=
  bitsAt_and_ones n 0 6

theorem regIdx_val {k : Nat} (h : k < 32) : (regIdx k).val = k := Nat.mod_eq_of_lt h

@[simp] theorem rsReg_val (n : Nat) : (rsReg n).val = rsField n := regIdx_val (bitsAt_lt n 21 5)
@[simp] theorem rtReg_val (n : Nat) : (rtReg n).val = rtField n := regIdx_val (bitsAt_lt n 16 5)
@[simp] theorem rdReg_val (n : Nat) : (rdReg n).val = rdField n := regIdx_val (bitsAt_lt n 11 5)
@[simp] theorem saReg_val (n : Nat) : (saReg n).val = saField n := regIdx_val (bitsAt_lt n 6 5)

/-! The decoder tests adjacent fields together: in JR, in DMFC1 and DMTC1, and in HALT. -/

theorem bitsAt_rt_rd_sa_eq_zero :
    bitsAt n 6 15 = 0 ↔ rtField n = 0 ∧ rdField n = 0 ∧ saField n = 0 := by
  unfold rtField rdField saField bitsAt
  omega

theorem bitsAt_sa_funct_eq_zero : bitsAt n 0 11 = 0 ↔ saField n = 0 ∧ functField n = 0 := by
  unfold saField functField bitsAt
  omega

theorem indexField_eq_zero : indexField n = 0 ↔
    rsField n = 0 ∧ rtField n = 0 ∧ rdField n = 0 ∧ saField n = 0 ∧ functField n = 0 := by
  unfold indexField rsField rtField rdField saField functField bitsAt
  omega

/-! ## What a word holds -/

/-- The six fields of `n` in the register formats (R92). -/
def HoldsR (n op rs rt rd sa funct : Nat) : Prop :=
  opField n = op ∧ rsField n = rs ∧ rtField n = rt ∧ rdField n = rd ∧ saField n = sa ∧
    functField n = funct

/-- The four fields of `n` in the immediate formats (R92). -/
def HoldsI (n op rs rt imm : Nat) : Prop :=
  opField n = op ∧ rsField n = rs ∧ rtField n = rt ∧ immField n = imm

/-- A number below 2^32 is the pack of its fields and of no other. -/
theorem holdsR_iff (hn : n < 2 ^ 32) {op rs rt rd sa funct : Nat} :
    HoldsR n op rs rt rd sa funct ↔
      (op < 64 ∧ rs < 32 ∧ rt < 32 ∧ rd < 32 ∧ sa < 32 ∧ funct < 64) ∧
        packR op rs rt rd sa funct = n := by
  unfold HoldsR packR opField rsField rtField rdField saField functField bitsAt
  omega

theorem holdsI_iff (hn : n < 2 ^ 32) {op rs rt imm : Nat} : HoldsI n op rs rt imm ↔
    (op < 64 ∧ rs < 32 ∧ rt < 32 ∧ imm < 65536) ∧ packI op rs rt imm = n := by
  unfold HoldsI packI opField rsField rtField immField bitsAt
  omega

theorem holdsJ_iff (hn : n < 2 ^ 32) {op index : Nat} : opField n = op ∧ indexField n = index ↔
    (op < 64 ∧ index < 67108864) ∧ op * 2 ^ 26 + index = n := by
  unfold opField indexField bitsAt
  omega

/-- `n` holds the layout: every field is the code, the fixed value or the operand placed there (R92). -/
def Layout.HeldIn (n : Nat) : Layout → Prop
  | .r sa funct rd rs rt => HoldsR n 0 rs rt rd sa funct
  | .rsa funct rd rt sa => HoldsR n 0 0 rt rd sa funct
  | .rsv funct rd rt rs => HoldsR n 0 rs rt rd 0 funct
  | .i op rt rs imm => HoldsI n op rs rt imm
  | .lui rt imm => HoldsI n 0x0F 0 rt imm
  | .mem op rt imm rs => HoldsI n op rs rt imm
  | .b2 op rs rt imm => HoldsI n op rs rt imm
  | .b1 op code rs imm => HoldsI n op rs code imm
  | .j op index => opField n = op ∧ indexField n = index
  | .jr rs => HoldsR n 0 rs 0 0 0 0x08
  | .jalr rd rs => HoldsR n 0 rs 0 rd 0 0x09
  | .h => HoldsR n 0x01 0 0 0 0 0
  | .fr3 fmt funct fd fs ft => HoldsR n 0x11 fmt ft fs fd funct
  | .fr2 fmt funct fd fs => HoldsR n 0x11 fmt 0 fs fd funct
  | .fm sub rt fs => HoldsR n 0x11 sub rt fs 0 0
  | .fb sub ft imm => HoldsI n 0x11 sub ft imm
  | .fmem op ft imm rs => HoldsI n op rs ft imm

/-- The codes and the operands of a layout are within the widths of their fields (R92, R95). -/
def Layout.fits : Layout → Bool
  | .r sa funct _ _ _ | .rsa funct _ _ sa => decide (funct < 64) && saFits sa
  | .rsv funct _ _ _ => decide (funct < 64)
  | .i op _ _ imm | .mem op _ imm _ | .b2 op _ _ imm | .fmem op _ imm _ =>
    decide (op < 64) && immFits imm
  | .lui _ imm => immFits imm
  | .b1 op code _ imm => decide (op < 64) && decide (code < 32) && immFits imm
  | .j op index => decide (op < 64) && indexFits index
  | .jr _ | .jalr _ _ | .h => true
  | .fr3 fmt funct _ _ _ | .fr2 fmt funct _ _ => decide (fmt < 32) && decide (funct < 64)
  | .fm sub _ _ => decide (sub < 32)
  | .fb sub _ imm => decide (sub < 32) && immFits imm

/-- The codes of every instruction fit, so what is left to ask is R95's check of its operands. -/
theorem Instr.layout_fits (i : Instr) : i.layout.fits = i.wellFormed := by
  cases i <;> rfl

theorem Layout.toNat_lt {l : Layout} (h : l.fits = true) : l.toNat < 2 ^ 32 := by
  cases l <;> simp only [fits, saFits, immFits, indexFits, Bool.and_eq_true, decide_eq_true_eq] at h <;>
    simp [toNat, Laws.packR_lt, Laws.packI_lt, Laws.packJ_lt, h, -Nat.reducePow]
  case h => decide

/-- A word holds a layout exactly if it is its number, no field cut off. -/
theorem Layout.heldIn_iff (hn : n < 2 ^ 32) (l : Layout) :
    l.HeldIn n ↔ l.fits = true ∧ l.toNat = n := by
  cases l <;>
    simp [HeldIn, fits, toNat, saFits, immFits, indexFits, holdsR_iff hn, holdsI_iff hn, holdsJ_iff hn,
      and_assoc, and_left_comm, -Nat.reducePow]
  case h => rfl

/-! ## Mask and match (R99, R104) -/

/-- `n` holds the fixed fields of the layout, whatever its operands (R92). -/
def Layout.FixedIn (n : Nat) : Layout → Prop
  | .r sa funct _ _ _ => opField n = 0 ∧ saField n = sa ∧ functField n = funct
  | .rsa funct _ _ _ => opField n = 0 ∧ rsField n = 0 ∧ functField n = funct
  | .rsv funct _ _ _ => opField n = 0 ∧ saField n = 0 ∧ functField n = funct
  | .i op _ _ _ | .mem op _ _ _ | .b2 op _ _ _ | .fmem op _ _ _ | .j op _ => opField n = op
  | .lui _ _ => opField n = 0x0F ∧ rsField n = 0
  | .b1 op code _ _ => opField n = op ∧ rtField n = code
  | .jr _ => opField n = 0 ∧ rtField n = 0 ∧ rdField n = 0 ∧ saField n = 0 ∧ functField n = 0x08
  | .jalr _ _ => opField n = 0 ∧ rtField n = 0 ∧ saField n = 0 ∧ functField n = 0x09
  | .h => HoldsR n 0x01 0 0 0 0 0
  | .fr3 fmt funct _ _ _ => opField n = 0x11 ∧ rsField n = fmt ∧ functField n = funct
  | .fr2 fmt funct _ _ => opField n = 0x11 ∧ rsField n = fmt ∧ rtField n = 0 ∧ functField n = funct
  | .fm sub _ _ => opField n = 0x11 ∧ rsField n = sub ∧ saField n = 0 ∧ functField n = 0
  | .fb sub _ _ => opField n = 0x11 ∧ rsField n = sub

theorem Layout.HeldIn.fixedIn {l : Layout} (h : l.HeldIn n) : l.FixedIn n := by
  cases l <;> simp_all [HeldIn, FixedIn, HoldsR, HoldsI]

/-- The fixed bits of a layout, operand fields 0 (R104, column "match"). -/
def Layout.mtch : Layout → IWord
  | .r sa funct _ _ _ => BitVec.ofNat 32 (packR 0 0 0 0 sa funct)
  | .rsa funct _ _ _ | .rsv funct _ _ _ => BitVec.ofNat 32 (packR 0 0 0 0 0 funct)
  | .i op _ _ _ | .mem op _ _ _ | .b2 op _ _ _ | .fmem op _ _ _ | .j op _ =>
    BitVec.ofNat 32 (packR op 0 0 0 0 0)
  | .lui _ _ => BitVec.ofNat 32 (packR 0x0F 0 0 0 0 0)
  | .b1 op code _ _ => BitVec.ofNat 32 (packR op 0 code 0 0 0)
  | .jr _ => BitVec.ofNat 32 (packR 0 0 0 0 0 0x08)
  | .jalr _ _ => BitVec.ofNat 32 (packR 0 0 0 0 0 0x09)
  | .h => BitVec.ofNat 32 (packR 0x01 0 0 0 0 0)
  | .fr3 fmt funct _ _ _ | .fr2 fmt funct _ _ => BitVec.ofNat 32 (packR 0x11 fmt 0 0 0 funct)
  | .fm sub _ _ | .fb sub _ _ => BitVec.ofNat 32 (packR 0x11 sub 0 0 0 0)

/-- Masking acts on each field by itself. -/
theorem and_eq_packR_iff {w m : IWord} {op rs rt rd sa funct : Nat}
    (h : op < 64 ∧ rs < 32 ∧ rt < 32 ∧ rd < 32 ∧ sa < 32 ∧ funct < 64) :
    w &&& m = BitVec.ofNat 32 (packR op rs rt rd sa funct) ↔
      opField w.toNat &&& bitsAt m.toNat 26 6 = op ∧ rsField w.toNat &&& bitsAt m.toNat 21 5 = rs ∧
      rtField w.toNat &&& bitsAt m.toNat 16 5 = rt ∧ rdField w.toNat &&& bitsAt m.toNat 11 5 = rd ∧
      saField w.toNat &&& bitsAt m.toNat 6 5 = sa ∧ functField w.toNat &&& bitsAt m.toNat 0 6 = funct := by
  have hlt : packR op rs rt rd sa funct < 2 ^ 32 :=
    let ⟨hop, hrs, hrt, hrd, hsa, hfunct⟩ := h
    Laws.packR_lt hop hrs hrt hrd hsa hfunct
  rw [← BitVec.toNat_inj, BitVec.toNat_ofNat, Nat.mod_eq_of_lt hlt, eq_comm]
  calc packR op rs rt rd sa funct = (w &&& m).toNat
      ↔ HoldsR (w &&& m).toNat op rs rt rd sa funct := by
        rw [holdsR_iff (w &&& m).isLt, and_iff_right h]
    _ ↔ _ := by
        simp only [HoldsR, BitVec.toNat_and, opField, rsField, rtField, rdField, saField, functField,
          bitsAt_and]

/-- The mask of a format covers its fixed fields, each of them whole. -/
theorem Layout.and_mask_eq_mtch_iff {l : Layout} (h : l.fits = true) {w : IWord} :
    w &&& l.mask = l.mtch ↔ l.FixedIn w.toNat := by
  cases l <;> simp only [fits, saFits, immFits, indexFits, Bool.and_eq_true, decide_eq_true_eq] at h <;>
    simp [mask, mtch, FixedIn, HoldsR, and_eq_packR_iff, h, bitsAt]

end Sys2Proof
end

section
/-!
The decoder and the encoder are inverse (O1), the decoder is the table (O2), and words of the spec (O3).
The first half says which word decodes to which instruction (`decodeNat_eq_ins_iff`): no branch of the
decoder answers an instruction the word does not hold, and a word with the fixed fields of an instruction
reaches the branch of that instruction.
-/

namespace Sys2Proof

variable {n : Nat}

/-! ## A decoded instruction is held in the word (R101, R102, R103) -/

/-- `d` is no instruction but one that `n` holds. -/
def Decoded.HeldIn (n : Nat) (d : Decoded) : Prop := ∀ i, d = .ins i → i.layout.HeldIn n

@[simp] theorem heldIn_reserved : Decoded.HeldIn n .reserved := nofun

@[simp] theorem heldIn_ins {i : Instr} : Decoded.HeldIn n (.ins i) ↔ i.layout.HeldIn n := by
  simp [Decoded.HeldIn]

@[simp] theorem heldIn_fixedThen {c : Bool} {i : Instr} :
    Decoded.HeldIn n (fixedThen c i) ↔ (c = true → i.layout.HeldIn n) := by
  cases c <;> simp [fixedThen]

@[simp] theorem heldIn_decodeMulDiv {lo hi : RegIdx → RegIdx → RegIdx → Instr} :
    Decoded.HeldIn n (decodeMulDiv n lo hi) ↔
      (saField n = 2 → (lo (rdReg n) (rsReg n) (rtReg n)).layout.HeldIn n) ∧
      (saField n = 3 → (hi (rdReg n) (rsReg n) (rtReg n)).layout.HeldIn n) := by
  unfold decodeMulDiv
  split <;> simp_all

theorem heldIn_decodeSpecial (hop : opField n = 0) : (decodeSpecial n).HeldIn n := by
  unfold decodeSpecial
  split <;> simp +contextual [decodeR, decodeRSA, Instr.layout, Layout.HeldIn, HoldsR,
    bitsAt_rt_rd_sa_eq_zero, *]

theorem heldIn_decodeRegimm (hop : opField n = 0x01) : (decodeRegimm n).HeldIn n := by
  unfold decodeRegimm
  split <;> simp +contextual [Instr.layout, Layout.HeldIn, HoldsR, HoldsI, indexField_eq_zero, *]

theorem heldIn_decodeFmtD (hop : opField n = 0x11) (hfmt : rsField n = 17) :
    (decodeFmtD n).HeldIn n := by
  unfold decodeFmtD
  split <;> simp [decodeFR3, decodeFR2, Instr.layout, Layout.HeldIn, HoldsR, *]

theorem heldIn_decodeFmtL (hop : opField n = 0x11) (hfmt : rsField n = 21) :
    (decodeFmtL n).HeldIn n := by
  unfold decodeFmtL
  split <;> simp [decodeFR3, decodeFR2, Instr.layout, Layout.HeldIn, HoldsR, *]

theorem heldIn_decodeCop1 (hop : opField n = 0x11) : (decodeCop1 n).HeldIn n := by
  unfold decodeCop1
  split <;> simp [heldIn_decodeFmtD, heldIn_decodeFmtL, Instr.layout, Layout.HeldIn, HoldsR, HoldsI,
    bitsAt_sa_funct_eq_zero, *]

theorem heldIn_decodeNat (n : Nat) : (decodeNat n).HeldIn n := by
  unfold decodeNat
  split <;> simp [decodeI, decodeMem, heldIn_decodeSpecial, heldIn_decodeRegimm, heldIn_decodeCop1,
    Instr.layout, Layout.HeldIn, HoldsI, *]

/-! ## The fixed fields lead to the instruction -/

/-- The row of the table an instruction belongs to (R104). -/
def Instr.row (i : Instr) : TableRow := ⟨i.mnemonic, i.layout.mtch, i.layout.mask⟩

/-- `j` is the instruction of the row of `i` that reads its operands from `n`: the same row, and `i`
itself where `n` holds the operands of `i`. -/
def Instr.ReadsAs (n : Nat) (i j : Instr) : Prop := j.row = i.row ∧ (i.layout.HeldIn n → j = i)

/-- The fixed fields of `i` are what the decoder looks at on the way to the branch of `i`. -/
theorem decodeNat_of_fixedIn {i : Instr} (h : i.layout.FixedIn n) :
    ∃ j, decodeNat n = .ins j ∧ i.ReadsAs n j := by
  cases i
  all_goals
    simp only [Instr.layout, Layout.FixedIn, HoldsR] at h
    -- the decoder runs down to the branch of `i`, which names `j`
    simp only [decodeNat, decodeSpecial, decodeRegimm, decodeCop1, decodeFmtD, decodeFmtL, decodeR,
      decodeRSA, decodeMulDiv, decodeFR2, decodeFR3, decodeI, decodeMem, fixedThen, h,
      bitsAt_rt_rd_sa_eq_zero, bitsAt_sa_funct_eq_zero, indexField_eq_zero, BEq.rfl, beq_iff_eq,
      Bool.and_self, and_self, if_true, Decoded.ins.injEq, exists_eq_left']
    refine ⟨rfl, ?_⟩
    -- the operands `j` reads are those of `i` where the word holds them
    simp +contextual [Instr.layout, Layout.HeldIn, HoldsR, HoldsI, Fin.ext_iff]

theorem decodeNat_eq_ins_iff {i : Instr} : decodeNat n = .ins i ↔ i.layout.HeldIn n := by
  refine ⟨heldIn_decodeNat n i, fun h => ?_⟩
  obtain ⟨j, hj, _, hji⟩ := decodeNat_of_fixedIn h.fixedIn
  rw [hj, hji h]

/-! ## Round trip (R95) -/

theorem decode_eq_ins_iff {w : IWord} {i : Instr} :
    decode w = .ins i ↔ WellFormed i ∧ i.layout.toNat = w.toNat := by
  rw [decode, decodeNat_eq_ins_iff, Layout.heldIn_iff w.isLt, Instr.layout_fits]

/-- Settles O1: a word decodes to an instruction exactly if it is the number of its layout. -/
theorem decodeEncodeRoundTrip : Obligations.DecodeEncodeRoundTrip := by
  refine ⟨fun i hw => ?_, fun w i hd => ?_⟩
  · have henc := Laws.encode_toNat (Layout.toNat_lt (i.layout_fits.trans hw))
    exact ⟨henc, decode_eq_ins_iff.mpr ⟨hw, henc.symm⟩⟩
  · obtain ⟨hw, hn⟩ := decode_eq_ins_iff.mp hd
    exact ⟨hw, by rw [encode, hn, BitVec.ofNat_toNat, BitVec.setWidth_eq]⟩

/-! ## The table (R99, R104, R105) -/

theorem Instr.row_mem (i : Instr) : i.row ∈ opcodeTable := by
  cases i <;> exact List.mem_of_elem_eq_true rfl

theorem Instr.row_covers_iff {i : Instr} (hi : WellFormed i) {w : IWord} :
    i.row.covers w = true ↔ i.layout.FixedIn w.toNat := by
  rw [← Layout.and_mask_eq_mtch_iff (i.layout_fits.trans hi)]
  exact beq_iff_eq

theorem row_covers_of_decode {w : IWord} {i : Instr} (h : decode w = .ins i) :
    i.row.covers w = true :=
  (Instr.row_covers_iff (decode_eq_ins_iff.mp h).1).mpr (decodeNat_eq_ins_iff.mp h).fixedIn

theorem Decoded.instr?_eq_some {d : Decoded} {i : Instr} : d.instr? = some i ↔ d = .ins i := by
  cases d <;> simp [instr?]

/-- The match of every row is itself a word of that row, the one with operand fields 0. -/
theorem decode_mtch_of_mem_opcodeTable :
    ∀ r ∈ opcodeTable, (decode r.mtch).instr?.map Instr.row = some r := by
  decide

theorem instr_of_mem_opcodeTable {r : TableRow} (h : r ∈ opcodeTable) :
    ∃ i, WellFormed i ∧ i.row = r := by
  obtain ⟨i, hi, hr⟩ := Option.map_eq_some_iff.mp (decode_mtch_of_mem_opcodeTable r h)
  exact ⟨i, (decode_eq_ins_iff.mp (Decoded.instr?_eq_some.mp hi)).1, hr⟩

theorem decode_of_covers {r : TableRow} (h : r ∈ opcodeTable) {w : IWord} (hc : r.covers w = true) :
    ∃ i, decode w = .ins i ∧ i.row = r := by
  obtain ⟨i, hi, rfl⟩ := instr_of_mem_opcodeTable h
  obtain ⟨j, hj, hrow, _⟩ := decodeNat_of_fixedIn ((Instr.row_covers_iff hi).mp hc)
  exact ⟨j, hj, hrow⟩

/-- Settles O2: a row that covers a word is the row of the instruction the word decodes to. -/
theorem decodeIsTheTable : Obligations.DecodeIsTheTable := by
  refine fun w => ⟨fun i hd => ⟨i.row, i.row_mem, row_covers_of_decode hd, rfl, fun r hr hc => ?_⟩,
    fun hd r hr => ?_, fun hnone => ?_⟩
  · obtain ⟨j, hj, rfl⟩ := decode_of_covers hr hc
    rw [hd] at hj
    cases hj
    rfl
  · by_contra hc
    obtain ⟨j, hj, _⟩ := decode_of_covers hr (Bool.eq_true_of_not_eq_false hc)
    rw [hd] at hj
    cases hj
  · cases hd : decode w with
    | reserved => rfl
    | ins i => simpa [row_covers_of_decode hd] using hnone i.row i.row_mem

/-- Settles O3: fixed words, decoded. -/
theorem specWordsDecode : Obligations.SpecWordsDecode := by
  unfold Obligations.SpecWordsDecode
  decide

end Sys2Proof
end

section
/-!
A fetched word that is reserved (O7).
-/

namespace Sys2Proof.Machine

theorem fetch_fetched {s : State} (ha : s.pc.toNat % 4 = 0)
    (hr : s.pc.toNat + 4 ≤ s.params.imemBytes) :
    fetch s = .hook (s.setSlot .IF (some s.fetchedEntry)) s.fetchedEntry := by
  simp [fetch, aligned, inRange, ha, hr, State.fetchedEntry]

/-- With IF empty and the fetch enabled, a fetch that passes its checks is followed at once by the hook
of IF on the fetched entry. -/
theorem runStage_fetched {s : State} (h0 : s.slot .IF = none) (hf : s.fetchEnable = true)
    (ha : s.pc.toNat % 4 = 0) (hr : s.pc.toNat + 4 ≤ s.params.imemBytes) :
    runStage .IF s = runHook .IF s.fetchedEntry (s.setSlot .IF (some s.fetchedEntry)) := by
  have he : enter .IF s = fetch s := by simp [enter, h0, Stage.before, hf]
  rw [runStage, he, fetch_fetched ha hr]

theorem runHook_reserved {s : State} {e : Entry} (h : decode e.word = .reserved) :
    runHook .IF e s = .next (s.faultOf e .reservedInstruction) := by
  simp [runHook, entryInstr, h, Decoded.instr?]

/-- Settles O7: the step ends with the turn of IF, where the fetched entry faults. -/
theorem reservedWordFaults : Obligations.ReservedWordFaults := by
  intro s t hacc hloop hrun hWB hMEM hEX hID h0 hf ha hr hw
  have hdone : ∀ st ∈ [Stage.WB, .MEM, .EX, .ID], t.doneAt st := by
    simp [hWB, hMEM, hEX, hID]
  have hturn := (runStage_fetched h0 hf ha hr).trans (runHook_reserved hw)
  exact ⟨_, step_of_turn_IF hacc hloop hrun hdone hturn, rfl, rfl, rfl, rfl, rfl, rfl, rfl, rfl⟩

end Sys2Proof.Machine
end

section
/-!
The five hooks in every state: what `ReadSrc` returns (O33), the decodeHook (O35), the executeHook
(O36) and the writebackHook (O38) of every instruction, and the atomicity of stalls and faults
(O42).
-/

namespace Sys2Proof.Machine

/-! ## Reading a source operand (40_stage_hooks.md R124) -/

section
variable {s : State} {r : RegRef}

/-- An entry that claims the register is the producer of its stage. -/
theorem State.producerAt_claims {st : Stage} {p : Entry} (hs : s.slot st = some p)
    (hc : p.claims r = true) : s.producerAt st r = some p := by
  unfold State.producerAt
  rw [hs]
  exact if_pos hc

/-- A stage whose entry does not claim the register has no producer of it. -/
theorem State.producerAt_none {st : Stage} (h : ∀ p, s.slot st = some p → p.claims r = false) :
    s.producerAt st r = none := by
  unfold State.producerAt
  cases hs : s.slot st with
  | none => rfl
  | some p => exact if_neg (Bool.eq_false_iff.mp (h p hs))

theorem State.readChecked_eq (s : State) (r : RegRef) :
    s.readChecked r = if s.sem r = 0 then .value (s.readReg r) else .stallRaw := by
  unfold State.readChecked
  by_cases h : s.sem r = 0
  · simp [h]
  · simp [h, Nat.pos_of_ne_zero h]

/-- Where the fast path finds no producer the semaphore decides. -/
theorem State.readSrc_checked (hr : r ≠ .x 0) (h : s.cfg.fwd = true → s.forwarder r = none) :
    s.readSrc r = if s.sem r = 0 then .value (s.readReg r) else .stallRaw := by
  rw [← s.readChecked_eq]
  unfold State.readSrc
  rw [if_neg hr]
  cases hf : s.cfg.fwd with
  | false => rfl
  | true => rw [h hf]; rfl

/-- A producer the fast path finds serves the read or stalls it. -/
theorem State.readSrc_forwarded {p : Entry} (hr : r ≠ .x 0) (hf : s.cfg.fwd = true)
    (hp : s.forwarder r = some p) :
    s.readSrc r = if p.resValid then .value p.res else .stallRaw := by
  unfold State.readSrc
  rw [if_neg hr, if_pos hf, hp]

end

/-- Settles O33: the fast path looks for a claim in EX, then in MEM, and only where it finds none
does the semaphore decide. -/
theorem readSourceRule : Obligations.ReadSourceRule := by
  intro s r
  refine ⟨rfl, fun hr hf => State.readSrc_checked hr (by simp [hf]), fun hr hf => ⟨?_, ?_⟩⟩
  · intro p hEX hc
    refine State.readSrc_forwarded hr hf ?_
    rw [State.forwarder, State.producerAt_claims hEX hc, Option.some_or]
  · intro hEX
    have hfwd : s.forwarder r = s.producerAt .MEM r := by
      rw [State.forwarder, State.producerAt_none hEX, Option.none_or]
    exact ⟨fun p hMEM hc => State.readSrc_forwarded hr hf
        (hfwd.trans (State.producerAt_claims hMEM hc)),
      fun hMEM => State.readSrc_checked hr fun _ => hfwd.trans (State.producerAt_none hMEM)⟩

/-! ## The decodeHook (40_stage_hooks.md R126, R127) -/

/-- The decodeHook of a row whose source stalls. -/
theorem RowOf.decodeHook_raw {i : Instr} {b : Behaviour} (hb : RowOf i b) {s : State}
    (h : s.readSources (idSourcesOf i) = none) (e : Entry) : decodeHook b e s = s.stall .raw := by
  unfold decodeHook
  rw [hb.idSources, h]

/-- The decodeHook of a row whose sources are read: the WAW test decides. -/
theorem RowOf.decodeHook_read {i : Instr} {b : Behaviour} (hb : RowOf i b) {s : State}
    {vs : List Word} (h : s.readSources (idSourcesOf i) = some vs) (e : Entry) :
    decodeHook b e s = if s.wawBusy (claimedOf i) then s.stall .waw
      else (s.claimDst (claimedOf i)).completeAt .ID
        { latch b vs s e with dst := claimedOf i, claimed := (claimedOf i).isSome } := by
  unfold decodeHook
  rw [hb.idSources, h, hb.claimed]

theorem State.wawBusy_eq_false {s : State} {d : Option RegRef} :
    s.wawBusy d = false ↔ ∀ r, d = some r → s.sem r = 0 := by
  cases d <;> simp [State.wawBusy]

theorem State.wawBusy_eq_true {s : State} {d : Option RegRef} :
    s.wawBusy d = true ↔ ∃ r, d = some r ∧ s.sem r ≠ 0 := by
  cases d <;> simp [State.wawBusy, Nat.pos_iff_ne_zero]

/-- Claiming a free destination sets its semaphore to 1. -/
theorem State.claimDst_free {s : State} {i : Instr} (h : ∀ d, claimedOf i = some d → s.sem d = 0) :
    s.claimDst (claimedOf i) = s.withClaim i := by
  unfold State.withClaim
  cases hd : claimedOf i with
  | none => rfl
  | some d => rw [State.claimDst, State.claim, h d hd]

/-- Settles O35: the due hook is the decodeHook of the row, whose WAW test is on the claimed
destination. -/
theorem decodeHookRule : Obligations.DecodeHookRule := by
  intro i s e hdue
  obtain ⟨b, hb⟩ := exec_row i
  rw [hb.exec_due hdue, hookAt]
  refine ⟨fun hs => ?_, fun vs hs => ⟨fun hbusy => ?_, fun hfree => ?_⟩⟩
  · rw [hb.decodeHook_raw hs]
    rfl
  · rw [hb.decodeHook_read hs, if_pos (State.wawBusy_eq_true.mpr hbusy)]
    rfl
  · rw [hb.decodeHook_read hs, State.wawBusy_eq_false.mpr hfree, State.claimDst_free hfree, latch,
      hb.oldOf]
    rfl

/-! ## The executeHook (40_stage_hooks.md R128, 60_exceptions.md R356) -/

/-- The gate lets a value through or raises an unmasked fault. -/
theorem ArithRes.gate_cases (r : ArithRes) (c : Cfg) :
    (∃ v, r.gate c = .ok v) ∨
      ∃ k : ArithKind, Cfg.masks c k = false ∧ r.gate c = .error k.toFaultKind := by
  cases r with
  | value v => exact .inl ⟨v, rfl⟩
  | fault k v =>
    cases hk : Cfg.masks c k with
    | true => exact .inl ⟨v, if_pos hk⟩
    | false => exact .inr ⟨k, hk, if_neg (Bool.eq_false_iff.mp hk)⟩

/-- The outcome of an executeHook is fixed by the row, the entry and the configuration: of the state
it reads no other field. -/
theorem executeHook_uniform (b : Behaviour) (e : Entry) (c : Cfg) :
    (∃ v valid ea, ∀ s : State, s.cfg = c →
      executeHook b e s = s.completeAt .EX { e with res := v, resValid := valid, ea := ea }) ∨
    (∃ k : ArithKind, Cfg.masks c k = false ∧ ∀ s : State, s.cfg = c →
      executeHook b e s = s.faultOf e k.toFaultKind) := by
  unfold executeHook
  cases b.execute e with
  | nothing => exact .inl ⟨e.res, e.resValid, e.ea, fun _ _ => rfl⟩
  | address ea => exact .inl ⟨e.res, e.resValid, ea, fun _ _ => rfl⟩
  | result r =>
    rcases r.gate_cases c with ⟨v, hv⟩ | ⟨k, hk, hf⟩
    · exact .inl ⟨v, true, e.ea, fun s hs => by simp only [hs, hv]⟩
    · exact .inr ⟨k, hk, fun s hs => by simp only [hs, hf]⟩

/-- Settles O36: the due hook is the executeHook of the row, whose outcome is fixed. -/
theorem executeHookRule : Obligations.ExecuteHookRule := by
  intro i e c
  obtain ⟨b, hb⟩ := exec_row i
  rcases executeHook_uniform b e c with ⟨v, valid, ea, h⟩ | ⟨k, hk, h⟩
  · exact .inl ⟨v, valid, ea, fun s hc hdue => by rw [hb.exec_due hdue, hookAt, h s hc]; rfl⟩
  · exact .inr ⟨k, hk, fun s hc hdue => by rw [hb.exec_due hdue, hookAt, h s hc]; rfl⟩

/-! ## The writebackHook (40_stage_hooks.md R129, 60_exceptions.md R362) -/

/-- The writebackHook of a waiting entry: the commit, the claim given up, and HALT alone ends the
run and leaves its entry waiting. -/
theorem RowOf.writebackHook_eq {i : Instr} {b : Behaviour} (hb : RowOf i b) {e : Entry}
    (hd : e.done = false) (s : State) : writebackHook b e s = { s.commit e with
      slots := { s.slots with WB := some { e with claimed := false, done := i != .halt } }
      runState := if i = .halt then .halted else s.runState } := by
  have hh := hb.halts
  by_cases hi : i = .halt
  · subst hi
    simp [writebackHook, hh, State.halt, State.setSlot, Slots.set, hd]
  · simp [writebackHook, hh, hi, State.completeAt, State.setSlot, Slots.set]

/-- The commit writes only registers and semaphores. -/
theorem State.commit_frame (s : State) (e : Entry) :
    { s.commit e with x := s.x, f := s.f, semX := s.semX, semF := s.semF } = s := by
  simp

theorem State.readReg_writeReg (s : State) (r q : RegRef) (v : Word) :
    (s.writeReg r v).readReg q = if r = q ∧ r ≠ .x 0 then v else s.readReg q := by
  cases r with
  | x i =>
    cases q with
    | x j => simpa [State.writeReg, State.readReg] using s.readX_writeX i j v
    | f j => simpa [State.writeReg, State.readReg] using State.readF_congr (s.writeX_f i v) j
  | f i =>
    cases q with
    | x j => simpa [State.writeReg, State.readReg] using State.readX_congr (s.writeF_x i v) j
    | f j => simpa [State.writeReg, State.readReg] using s.readF_writeF i j v

/-- The commit of a claim on `d` writes the result into `d` and no other register; a write to `x[0]`
is discarded (10_state.md R21). -/
theorem State.readReg_commit {s : State} {e : Entry} {d : RegRef} (hc : e.claimed = true)
    (hd : e.dst = some d) (r : RegRef) :
    (s.commit e).readReg r = if d = r ∧ d ≠ .x 0 then e.res else s.readReg r := by
  rw [s.commit_claimed hc hd, ← s.readReg_writeReg]
  exact State.readReg_congr (by simp) (by simp) r

/-- Settles O38: the due hook is the writebackHook of the row, which differs from the commit in the
slot and the run state only. -/
theorem writebackHookRule : Obligations.WritebackHookRule := by
  intro i s e hdue after run
  obtain ⟨_, hdone, _⟩ := State.due_elim hdue
  obtain ⟨b, hb⟩ := exec_row i
  rw [hb.exec_due hdue, hookAt, hb.writebackHook_eq hdone]
  refine ⟨fun hc => ?_,
    fun d hc hd => ⟨s.commit e, rfl, s.commit_frame e, ?_, fun hne => ?_, fun r hr => ⟨?_, ?_⟩⟩⟩
  · rw [s.commit_unclaimed hc]
  · rw [s.sem_commit, if_pos (Entry.claims_iff.mpr ⟨hc, hd⟩)]
  · rw [State.readReg_commit hc hd, if_pos ⟨rfl, hne⟩]
  · have hn : ¬e.claims r = true := fun h =>
      hr (Option.some.inj ((Entry.claims_iff.mp h).2.symm.trans hd))
    rw [s.sem_commit, if_neg hn, Nat.sub_zero]
  · rw [State.readReg_commit hc hd, if_neg fun h => hr h.1.symm]

/-! ## Stalls and faults (40_stage_hooks.md R122) -/

/-- Settles O42: of the three ends of a hook one counts a stall and one enters FAULTED, and each
says what it leaves. -/
theorem stallsAndFaultsAreAtomic : Obligations.StallsAndFaultsAreAtomic := by
  intro i s t h
  obtain ⟨b, st, e, _, _, rfl⟩ := exec_next h
  rcases hookAt_outcome i b st e s with ⟨k, hu⟩ | ⟨k, ia, addr, n, w, hu⟩ | ⟨hs, _, hr⟩
  · rw [hu]
    refine ⟨fun _ => by cases k <;> rfl, fun hn hf => ?_⟩
    rw [State.stall_runState] at hf
    exact absurd hf hn
  · rw [hu]
    exact ⟨fun hne => absurd (State.takeFault_stalls s k ia addr n w) hne, fun _ _ => rfl⟩
  · refine ⟨fun hne => absurd hs hne, fun hn hf => ?_⟩
    rcases hr with hr | hr <;> rw [hf] at hr
    · exact absurd hr.symm hn
    · cases hr

end Sys2Proof.Machine
end

section
/-!
A lone instruction moves on one stage per step (O48): the turns of the step loop over empty stages
change nothing, so the step is the one turn into whose stage the entry moves.
-/

namespace Sys2Proof.Machine

/-! ## Turns over empty stages (70_reset_and_hazards.md R397) -/

/-- Nothing stands in the stage and nothing can come into it. -/
structure State.IdleAt (s : State) (st : Stage) : Prop where
  here : s.slot st = none
  before : ∀ p, st.before = some p → s.slot p = none
  noFetch : st = .IF → s.fetchEnable = false

theorem State.IdleAt.runStage_eq {s : State} {st : Stage} (h : s.IdleAt st) :
    runStage st s = .next s := by
  have henter : enter st s = .pass s := by
    cases st
    case IF => simp [enter, h.here, Stage.before, h.noFetch]
    all_goals simp [enter, h.here, Stage.before, moveInto, h.before _ rfl]
  unfold runStage
  rw [henter]

theorem State.IdleAt.goesOn_eq {s : State} {st : Stage} (h : s.IdleAt st)
    (hr : s.runState = .running) : goesOn st s = true :=
  goesOn_of_doneAt hr fun e he => by rw [h.here] at he; cases he

/-- The loop over idle stages changes nothing. -/
theorem loopFrom_idle {stages : List Stage} {s : State} (hr : s.runState = .running)
    (h : ∀ st ∈ stages, s.IdleAt st) : loopFrom stages s = .next s := by
  induction stages with
  | nil => rfl
  | cons st rest ih =>
    have hst := h st List.mem_cons_self
    rw [loopFrom, hst.runStage_eq]
    simp only [hst.goesOn_eq hr, if_true]
    exact ih fun o ho => h o (List.mem_cons_of_mem _ ho)

/-- A turn after which the remaining stages are idle is the last to change anything. -/
theorem loopFrom_idle_after {s t : State} {st : Stage} {rest : List Stage}
    (h : runStage st s = .next t) (hidle : ∀ o ∈ rest, t.IdleAt o) :
    loopFrom (st :: rest) s = .next t := by
  rw [loopFrom, h]
  cases hg : goesOn st t with
  | false => simp [hg]
  | true => simpa [hg] using loopFrom_idle (goesOn_elim hg).1 hidle

/-! ## A lone entry -/

/-- No stage but `p` holds an entry. -/
def State.EmptyBut (s : State) (p : Stage) : Prop := ∀ o, o ≠ p → s.slot o = none

/-- With one stage occupied every other stage is idle, but for the one the entry moves into. -/
theorem State.EmptyBut.idleAt {s : State} {p o : Stage} (h : s.EmptyBut p)
    (hf : s.fetchEnable = false) (ho : o ≠ p) (hb : o.before ≠ some p) : s.IdleAt o where
  here := h o ho
  before q hq := h q fun hqp => hb (hqp ▸ hq)
  noFetch _ := hf

/-- The turn of an empty stage behind which a done entry stands is the hook of that entry's
instruction, once it has moved in. -/
theorem runStage_moved {s : State} {st p : Stage} {e : Entry} {i : Instr} (hp : st.before = some p)
    (h0 : s.slot st = none) (he : s.slot p = some e) (hd : e.done = true) (hi : e.ins = some i) :
    enter st s = .hook (s.advanceInto st) { e with done := false } ∧
      runStage st s = exec i (s.advanceInto st) := by
  have henter : enter st s = .hook (s.advanceInto st) { e with done := false } := by
    simp [enter, h0, hp, moveInto, he, hd, State.advanceInto]
  refine ⟨henter, ?_⟩
  unfold runStage
  rw [henter]
  cases st
  case IF => cases hp
  all_goals simp [runHook, entryInstr, hi]

/-- A lone entry leaves its stage when it moves. -/
theorem State.EmptyBut.advanceInto {s : State} {st p : Stage} {e : Entry} (h : s.EmptyBut p)
    (hp : st.before = some p) (he : s.slot p = some e) : (s.advanceInto st).EmptyBut st := by
  intro o ho
  simp only [State.advanceInto, hp, he, State.slot_setSlot, if_neg ho.symm]
  split
  · rfl
  · exact h o (Ne.symm ‹_›)

/-- A hook brings no entry into another stage. -/
theorem State.EmptyBut.hook {s : State} {st : Stage} (h : s.EmptyBut st) (i : Instr)
    (b : Behaviour) (e : Entry) : (hookAt i b st e s).EmptyBut st := fun o ho =>
  (hookAt_slot_other i b st o e s ho).trans (h o ho)

/-- The stages of a step around one of them. -/
theorem loopOrder_split (st : Stage) : loopOrder = st.older.reverse ++ st :: st.younger := by
  cases st <;> rfl

/-- With a lone done entry and no fetch the loop is the turn of the stage the entry moves into: the
older stages are idle before it, the younger ones after it. -/
theorem loopFrom_lone {s : State} {st p : Stage} {e : Entry} {i : Instr}
    (hrun : s.runState = .running) (hf : s.fetchEnable = false) (hp : st.before = some p)
    (hs : s.EmptyBut p) (he : s.slot p = some e) (hd : e.done = true) (hi : e.ins = some i) :
    loopFrom loopOrder s = exec i (s.advanceInto st) := by
  have hdepth := Stage.before_eq_some.mp hp
  have hst : st ≠ .IF := by rintro rfl; cases hp
  have holder : ∀ o ∈ st.older, s.IdleAt o := fun o ho => by
    rw [Stage.mem_older] at ho
    refine hs.idleAt hf ?_ ?_
    · rw [Ne, Stage.depth_inj]; omega
    · rw [Ne, Stage.before_eq_some]; omega
  have h0 : s.slot st = none := hs st (by rw [Ne, Stage.depth_inj]; omega)
  obtain ⟨henter, hturn⟩ := runStage_moved hp h0 he hd hi
  obtain ⟨_, _, _, hdue⟩ := due_of_enter henter fun o ho k hk => by
    rw [(holder o ho).here] at hk; cases hk
  obtain ⟨b, hb⟩ := exec_row i
  have hexec := hb.exec_due hdue
  have hafter := (hs.advanceInto hp he).hook i b { e with done := false }
  have hyounger : ∀ o ∈ st.younger,
      (hookAt i b st { e with done := false } (s.advanceInto st)).IdleAt o := fun o ho => by
    rw [Stage.mem_younger] at ho
    refine hafter.idleAt ?_ ?_ ?_
    · rw [(hookAt_front i b _ _ hst).2, State.advanceInto_fetchEnable, hf]
    · rw [Ne, Stage.depth_inj]; omega
    · rw [Ne, Stage.before_eq_some]; omega
  have hfront : loopFrom st.older.reverse s = .next s :=
    loopFrom_idle hrun fun o ho => holder o (List.mem_reverse.mp ho)
  rw [loopOrder_split st, loopFrom_append _ hfront fun o ho =>
    (holder o (List.mem_reverse.mp ho)).goesOn_eq hrun, hexec]
  exact loopFrom_idle_after (hturn.trans hexec) hyounger

/-- A cycle of a running core with nothing to retire begins with its count. -/
theorem beginCycle_of_running {s : State} (hr : s.runState = .running) (hWB : s.slot .WB = none) :
    s.beginCycle = { s with cycle := s.cycle + 1 } := by
  unfold State.beginCycle
  rw [← hr]
  exact State.setSlot_self { s with cycle := s.cycle + 1 } .WB none hWB

/-- Settles O48: the cycle begins with its count, and its loop is the turn of the stage the entry
moves into. -/
theorem loneInstructionAdvances : Obligations.LoneInstructionAdvances := by
  intro s p st e i hrun hf hp hslots hd hi
  have he : s.slot p = some e := by rw [State.slot, hslots, Slots.get_set_same]
  have hs : s.EmptyBut p := fun o ho => by
    rw [State.slot, hslots, Slots.get_set_ne _ _ ho.symm]
    cases o <;> rfl
  have hWB : s.slot .WB = none := hs .WB (by rintro rfl; cases st <;> cases hp)
  have hacc : s.runState.accepts = true := by rw [hrun]; rfl
  calc step s = loopFrom loopOrder s.beginCycle := if_pos hacc
    _ = loopFrom loopOrder { s with cycle := s.cycle + 1 } := by
      rw [beginCycle_of_running hrun hWB]
    _ = _ := loopFrom_lone hrun hf hp hs he hd hi

end Sys2Proof.Machine
end

section
/-!
A row alone in the pipeline whose executeHook delivers a result for a general register or raises an
arithmetic fault, and the 32-bit and 64-bit arithmetic such a row computes with.
-/

namespace Sys2Proof.Machine

/-! ## Rows with a result (40_stage_hooks.md R131) -/

/-- What the rows of instructions that compute in EX and write `x[rd]` have in common: they are no
transfer, no access and no HALT. -/
structure ResultRow (i : Instr) (b : Behaviour) (rd : RegIdx) : Prop where
  row : RowOf i b := by
    exact ⟨fun _ => rfl, rfl, rfl, rfl, rfl, rfl, rfl, rfl, fun _ _ _ => rfl⟩
  noFetchSource : b.ifSources = [] := by rfl
  dst : b.dst = some (.x rd) := by rfl
  noAccess : b.memory = .nothing := by rfl
  staysOn : ∀ ia vs, b.target ia vs = none := by exact fun _ _ => rfl
  runsOn : b.halts = false := by rfl

section
variable {i : Instr} {b : Behaviour} {rd : RegIdx} {s : State} {r : ArithRes}

theorem ResultRow.unhindered (h : ResultRow i b rd) (hfree : s.free (b.idSources ++ [.x rd])) :
    b.Unhindered s :=
  Behaviour.unhindered_of_free (by simpa [h.noFetchSource, h.dst] using hfree)

theorem ResultRow.completes {v : Word} (h : ResultRow i b rd)
    (hfree : s.free (b.idSources ++ [.x rd])) (hx : b.execute (decodedAlone i b s) = .result r)
    (hg : r.gate s.cfg = .ok v) : CompletesAs i s (s.withX rd v) := by
  rw [← Behaviour.outcome_x v h.dst h.runsOn h.staysOn]
  exact completes_result h.row (h.unhindered hfree) h.runsOn h.noAccess hx hg

/-- Of the state a faulted run is compared with only the fields beside the slots matter. -/
theorem FaultsInExAs.of_drained {u v : State} (h : FaultsInExAs i s u)
    (hd : u.drained = v.drained) : FaultsInExAs i s v := by
  obtain ⟨s1, s2, t, h1, h2, h3, hs, hh, hf, ht⟩ := h
  exact ⟨s1, s2, t, h1, h2, h3, hs, hh, hf, ht.trans hd⟩

theorem ResultRow.faults {k : FaultKind} (h : ResultRow i b rd)
    (hfree : s.free (b.idSources ++ [.x rd])) (hx : b.execute (decodedAlone i b s) = .result r)
    (hg : r.gate s.cfg = .error k) : FaultsInExAs i s (s.faultedInEx i k) := by
  have hu := h.unhindered hfree
  have hclaim : s.advanced.claimDst (claimedOf i) = s.advanced.withClaim i :=
    State.claimDst_free fun d hd =>
      (State.sem_congr rfl rfl d).trans (hu.dst d (h.row.claimed.trans hd))
  refine (faults_in_ex h.row hu h.runsOn h.staysOn hx hg).of_drained ?_
  rw [h.row.claimed, hclaim]
  rfl

end

/-! ## The kinds of such rows in 41_int_alu.md -/

section
variable {i : Instr} {rd rs rt : RegIdx} {s : State} {v : Word}

theorem regReg_completes (op : Word → Word → ArithRes) (hfree : s.free [.x rs, .x rt, .x rd])
    (hv : op (s.readX rs) (s.readX rt) = .value v)
    (h : ResultRow i (regReg rd rs rt op) rd := by exact {}) :
    CompletesAs i s (s.withX rd v) :=
  h.completes hfree (congrArg ExAction.result hv) rfl

theorem shiftImm_completes (op : Word → ArithRes) (hfree : s.free [.x rt, .x rd])
    (hv : op (s.readX rt) = .value v)
    (h : ResultRow i (shiftImm rd rt op) rd := by exact {}) :
    CompletesAs i s (s.withX rd v) :=
  h.completes hfree (congrArg ExAction.result hv) rfl

/-- The unsigned low bits as a remainder (00_scope.md R6). -/
theorem unsignedLow_eq_mod (n : Nat) (a : Word) : unsignedLow n a = a.toNat % 2 ^ n :=
  BitVec.toNat_setWidth n a

/-- Only the low bits of the amount register count (R182). -/
theorem shiftReg_completes (bits : Nat) (op : Nat → Word → ArithRes)
    (hfree : s.free [.x rs, .x rt, .x rd])
    (hv : op ((s.readX rs).toNat % 2 ^ bits) (s.readX rt) = .value v)
    (h : ResultRow i (shiftReg rd rt rs bits op) rd := by exact {}) :
    CompletesAs i s (s.withX rd v) := by
  rw [← unsignedLow_eq_mod] at hv
  exact h.completes hfree (congrArg ExAction.result hv) rfl

/-- Both branches of a conditional move write `x[rd]`: the source or the old value. -/
theorem condMove_completes (cond : Word → Bool) (hfree : s.free [.x rs, .x rt, .x rd])
    (h : ResultRow i (condMove rd rs rt cond) rd) :
    CompletesAs i s (s.withX rd (if cond (s.readX rt) then s.readX rs else s.readX rd)) :=
  h.completes hfree rfl rfl

theorem condMove_moves (cond : Word → Bool) (hfree : s.free [.x rs, .x rt, .x rd])
    (hc : cond (s.readX rt) = true)
    (h : ResultRow i (condMove rd rs rt cond) rd := by exact {}) :
    CompletesAs i s (s.withX rd (s.readX rs)) := by
  have hrun := condMove_completes cond hfree h
  rwa [if_pos hc] at hrun

/-- Writing a register its own value changes nothing. -/
theorem State.withX_readX (s : State) (rd : RegIdx) : s.withX rd (s.readX rd) = s.advanced := by
  by_cases h : rd = 0
  · subst h; rfl
  · simp [State.withX, State.writeX, State.readX, h, State.advanced, Vector.get_eq_getElem]

theorem condMove_keeps (cond : Word → Bool) (hfree : s.free [.x rs, .x rt, .x rd])
    (hc : cond (s.readX rt) = false)
    (h : ResultRow i (condMove rd rs rt cond) rd := by exact {}) :
    CompletesAs i s s.advanced := by
  have hrun := condMove_completes cond hfree h
  rwa [if_neg (Bool.eq_false_iff.mp hc), State.withX_readX] at hrun

end

/-! ## Width-correct overflow (00_scope.md R9, 41_int_alu.md R183) -/

theorem fitsSigned_iff {n : Nat} {k : Int} :
    fitsSigned n k = true ↔ -2 ^ (n - 1) ≤ k ∧ k < 2 ^ (n - 1) := by
  rw [fitsSigned, Bool.and_eq_true, decide_eq_true_iff, decide_eq_true_iff, Int.le_sub_one_iff]

theorem trapOverflow_of_fits {n : Nat} {k : Int} (hlo : -2 ^ (n - 1) ≤ k) (hhi : k < 2 ^ (n - 1)) :
    trapOverflow n k = .value (truncSext n k) :=
  if_pos (fitsSigned_iff.mpr ⟨hlo, hhi⟩)

/-- The nearest value of the width to one outside it: the smallest below, the largest above. -/
theorem satSigned_of_unfit {n : Nat} {k : Int} (h : k < -2 ^ (n - 1) ∨ 2 ^ (n - 1) ≤ k) :
    satSigned n k = if k < 0 then -2 ^ (n - 1) else 2 ^ (n - 1) - 1 := by
  have hpos : (0 : Int) < 2 ^ (n - 1) := Int.pow_pos (by decide)
  unfold satSigned
  generalize (2 : Int) ^ (n - 1) = m at *
  obtain h | h := h
  · rw [if_neg (by omega), if_pos h, if_pos (by omega)]
  · rw [if_pos (by omega), if_neg (by omega)]

theorem trapOverflow_of_unfit {n : Nat} {k : Int} (h : k < -2 ^ (n - 1) ∨ 2 ^ (n - 1) ≤ k) :
    trapOverflow n k = .fault .overflow
      (truncSext n (if k < 0 then -2 ^ (n - 1) else 2 ^ (n - 1) - 1)) := by
  rw [trapOverflow, if_neg (by rw [fitsSigned_iff]; omega), satSigned_of_unfit h]

theorem addTrap_of_fits {n : Nat} {a b : Word}
    (hlo : -2 ^ (n - 1) ≤ (a.setWidth n).toInt + (b.setWidth n).toInt)
    (hhi : (a.setWidth n).toInt + (b.setWidth n).toInt < 2 ^ (n - 1)) :
    addTrap n a b = .value ((a.setWidth n + b.setWidth n).signExtend 64) := by
  rw [addTrap, signedLow, signedLow, trapOverflow_of_fits hlo hhi, truncSext, BitVec.ofInt_add,
    BitVec.ofInt_toInt, BitVec.ofInt_toInt, sextFrom]

theorem subTrap_of_fits {n : Nat} {a b : Word}
    (hlo : -2 ^ (n - 1) ≤ (a.setWidth n).toInt - (b.setWidth n).toInt)
    (hhi : (a.setWidth n).toInt - (b.setWidth n).toInt < 2 ^ (n - 1)) :
    subTrap n a b = .value ((a.setWidth n - b.setWidth n).signExtend 64) := by
  rw [subTrap, signedLow, signedLow, trapOverflow_of_fits hlo hhi, truncSext, sub_eq_add_neg,
    BitVec.ofInt_add, BitVec.ofInt_neg, BitVec.ofInt_toInt, BitVec.ofInt_toInt, ← BitVec.sub_eq_add_neg,
    sextFrom]

/-- A row alone whose exact result does not fit its width: the gate passes the saturated value or
raises Overflow (60_exceptions.md R356). -/
theorem ResultRow.overflows {i : Instr} {b : Behaviour} {rd : RegIdx} {s : State} {n : Nat} {k : Int}
    (h : ResultRow i b rd) (hfree : s.free (b.idSources ++ [.x rd]))
    (hx : b.execute (decodedAlone i b s) = .result (trapOverflow n k))
    (hk : k < -2 ^ (n - 1) ∨ 2 ^ (n - 1) ≤ k) :
    (s.cfg.maskOvf = true → CompletesAs i s
      (s.withX rd (truncSext n (if k < 0 then -2 ^ (n - 1) else 2 ^ (n - 1) - 1)))) ∧
    (s.cfg.maskOvf = false → FaultsInExAs i s (s.faultedInEx i .overflow)) := by
  rw [trapOverflow_of_unfit hk] at hx
  exact ⟨fun hm => h.completes hfree hx (if_pos hm),
    fun hm => h.faults hfree hx (if_neg (Bool.eq_false_iff.mp hm))⟩

/-- The saturated values of 32 bits, sign-extended. -/
theorem truncSext_sat32 (k : Int) :
    truncSext 32 (if k < 0 then -2 ^ (32 - 1) else 2 ^ (32 - 1) - 1) =
      if k < 0 then 0xFFFFFFFF80000000#64 else 0x000000007FFFFFFF#64 := by
  split <;> rfl

/-- The saturated values of 64 bits. -/
theorem truncSext_sat64 (k : Int) :
    truncSext 64 (if k < 0 then -2 ^ (64 - 1) else 2 ^ (64 - 1) - 1) =
      if k < 0 then 0x8000000000000000#64 else 0x7FFFFFFFFFFFFFFF#64 := by
  split <;> rfl

end Sys2Proof.Machine
end

section
/-!
The integer register-register instructions alone in the pipeline: the trapping adds and subtracts (O8,
O9), the wrapping ones (O10), the logical instructions and compares (O11), the shifts (O12, O13) and the
conditional moves (O14).
-/

namespace Sys2Proof.Machine

/-! ## Adds and subtracts (41_int_alu.md R150 to R157) -/

/-- At 64 bits nothing is cut off and nothing extended. -/
theorem addTrap64_of_fits {a b : Word} (hlo : -2 ^ 63 ≤ a.toInt + b.toInt)
    (hhi : a.toInt + b.toInt < 2 ^ 63) : addTrap 64 a b = .value (a + b) := by
  have h := addTrap_of_fits (n := 64) (a := a) (b := b)
  rw [BitVec.setWidth_eq, BitVec.setWidth_eq, BitVec.signExtend_eq] at h
  exact h hlo hhi

theorem subTrap64_of_fits {a b : Word} (hlo : -2 ^ 63 ≤ a.toInt - b.toInt)
    (hhi : a.toInt - b.toInt < 2 ^ 63) : subTrap 64 a b = .value (a - b) := by
  have h := subTrap_of_fits (n := 64) (a := a) (b := b)
  rw [BitVec.setWidth_eq, BitVec.setWidth_eq, BitVec.signExtend_eq] at h
  exact h hlo hhi

/-- Settles O8: where the exact result fits, the trapping operation is the operation of its width. -/
theorem addSubComplete : Obligations.AddSubComplete := by
  intro s rd rs rt hfree
  refine ⟨⟨fun hlo hhi => ?add, fun hlo hhi => ?sub⟩, ⟨fun hlo hhi => ?dadd, fun hlo hhi => ?dsub⟩⟩
  case add => exact regReg_completes (addTrap 32) hfree (addTrap_of_fits hlo hhi)
  case sub => exact regReg_completes (subTrap 32) hfree (subTrap_of_fits hlo hhi)
  case dadd => exact regReg_completes (addTrap 64) hfree (addTrap64_of_fits hlo hhi)
  case dsub => exact regReg_completes (subTrap 64) hfree (subTrap64_of_fits hlo hhi)

/-- Settles O9: where the exact result does not fit, the gate decides between the saturated value and
the fault. -/
theorem addSubOverflow : Obligations.AddSubOverflow := by
  intro s rd rs rt hfree
  constructor
  · rintro i k (⟨rfl, rfl⟩ | ⟨rfl, rfl⟩) hk <;> rw [← truncSext_sat32]
    · exact ResultRow.overflows (b := regReg rd rs rt (addTrap 32)) {} hfree rfl hk
    · exact ResultRow.overflows (b := regReg rd rs rt (subTrap 32)) {} hfree rfl hk
  · rintro i k (⟨rfl, rfl⟩ | ⟨rfl, rfl⟩) hk <;> rw [← truncSext_sat64]
    · exact ResultRow.overflows (b := regReg rd rs rt (addTrap 64)) {} hfree rfl hk
    · exact ResultRow.overflows (b := regReg rd rs rt (subTrap 64)) {} hfree rfl hk

/-- The low 32 bits of a sum depend on the low 32 bits of the summands only. -/
theorem addWrap32_eq (a b : Word) :
    addWrap32 a b = .value ((a.setWidth 32 + b.setWidth 32).signExtend 64) := by
  rw [addWrap32, sext, sextFrom, BitVec.setWidth_add _ _ (by decide)]

theorem subWrap32_eq (a b : Word) :
    subWrap32 a b = .value ((a.setWidth 32 - b.setWidth 32).signExtend 64) := by
  have h : a.setWidth 32 - b.setWidth 32 = (a - b).setWidth 32 := by
    rw [BitVec.sub_eq_iff_eq_add, ← BitVec.setWidth_add _ _ (by decide), BitVec.sub_add_cancel]
  rw [subWrap32, sext, sextFrom, h]

/-- Settles O10: the wrapping operations are those of `BitVec` at their width. -/
theorem wrappingAddSubComplete : Obligations.WrappingAddSubComplete := by
  intro s rd rs rt hfree a b
  exact ⟨regReg_completes addWrap32 hfree (addWrap32_eq a b),
    regReg_completes subWrap32 hfree (subWrap32_eq a b),
    regReg_completes addWrap64 hfree rfl,
    regReg_completes subWrap64 hfree rfl⟩

/-! ## Logical instructions and compares (41_int_alu.md R158 to R163) -/

theorem norOp_eq (a b : Word) : norOp a b = .value (~~~a &&& ~~~b) := by
  rw [norOp, BitVec.not_or]

/-- Settles O11: each operation is the one of `BitVec` on all 64 bits, NOR by De Morgan's law. -/
theorem logicAndCompareComplete : Obligations.LogicAndCompareComplete := by
  intro s rd rs rt hfree a b
  exact ⟨regReg_completes andOp hfree rfl,
    regReg_completes orOp hfree rfl,
    regReg_completes xorOp hfree rfl,
    regReg_completes norOp hfree (norOp_eq a b),
    regReg_completes sltOp hfree rfl,
    regReg_completes sltuOp hfree rfl⟩

/-! ## Shifts (41_int_alu.md R164 to R178, R181, R182) -/

/-- Settles O12: each shift is the one of `BitVec` at its width, by `sa` or `sa + 32`. -/
theorem constantShiftsComplete : Obligations.ConstantShiftsComplete := by
  intro s rd rt sa hfree v w
  exact ⟨shiftImm_completes (sll32 sa) hfree rfl,
    shiftImm_completes (srl32 sa) hfree rfl,
    shiftImm_completes (sra32 sa) hfree rfl,
    shiftImm_completes (sll64 sa) hfree rfl,
    shiftImm_completes (srl64 sa) hfree rfl,
    shiftImm_completes (sra64 sa) hfree rfl,
    shiftImm_completes (sll64 (sa + 32)) hfree rfl,
    shiftImm_completes (srl64 (sa + 32)) hfree rfl,
    shiftImm_completes (sra64 (sa + 32)) hfree rfl⟩

/-- Settles O13: the amount is the low 5 or 6 bits of its register, as `shiftReg_completes` has it. -/
theorem registerShiftsComplete : Obligations.RegisterShiftsComplete := by
  intro s rd rt rs hfree v w n5 n6
  exact ⟨shiftReg_completes 5 sll32 hfree rfl,
    shiftReg_completes 5 srl32 hfree rfl,
    shiftReg_completes 5 sra32 hfree rfl,
    shiftReg_completes 6 sll64 hfree rfl,
    shiftReg_completes 6 srl64 hfree rfl,
    shiftReg_completes 6 sra64 hfree rfl⟩

/-! ## Conditional moves (41_int_alu.md R179, R180) -/

/-- Settles O14: the two conditions are each other's negation, and a move whose condition fails writes
the old value back. -/
theorem conditionalMovesComplete : Obligations.ConditionalMovesComplete := by
  intro s rd rs rt hfree
  refine ⟨fun h => ⟨?movz_moves, ?movn_keeps⟩, fun h => ⟨?movz_keeps, ?movn_moves⟩⟩
  case movz_moves => exact condMove_moves (· == 0#64) hfree (beq_iff_eq.mpr h)
  case movn_keeps => exact condMove_keeps (· != 0#64) hfree (bne_eq_false_iff_eq.mpr h)
  case movz_keeps => exact condMove_keeps (· == 0#64) hfree (beq_eq_false_iff_ne.mpr h)
  case movn_moves => exact condMove_moves (· != 0#64) hfree (bne_iff_ne.mpr h)

end Sys2Proof.Machine
end

section
/-!
The integer immediate instructions alone in the pipeline: the trapping adds (O15) and the others (O16).
-/

namespace Sys2Proof.Machine

/-! ## The row of an immediate instruction (40_stage_hooks.md R131) -/

section
variable {i : Instr} {rt rs : RegIdx} {s : State}

/-- One source and one destination, as in the row of a shift by a constant. -/
theorem regImm_eq_shiftImm (rt rs : RegIdx) (op : Word → ArithRes) :
    regImm rt rs op = shiftImm rt rs op := rfl

theorem regImm_completes {v : Word} (op : Word → ArithRes) (hfree : s.free [.x rs, .x rt])
    (hv : op (s.readX rs) = .value v) (h : ResultRow i (regImm rt rs op) rt := by exact {}) :
    CompletesAs i s (s.withX rt v) :=
  shiftImm_completes op hfree hv (regImm_eq_shiftImm rt rs op ▸ h)

/-- LUI reads no register, so only its destination has to be free. -/
theorem loadUpper_completes {imm : Nat} (hfree : s.free [.x rt])
    (h : ResultRow i (loadUpper rt imm) rt := by exact {}) :
    CompletesAs i s (s.withX rt (immUpper imm)) :=
  h.completes hfree rfl rfl

/-- The three ends of a trapping immediate add of width `n` with the exact sum `k`: the sum where it
fits, else the saturated value or the fault. -/
theorem addImmTrap_alone {n imm : Nat} {k : Int} (hfree : s.free [.x rs, .x rt])
    (hsum : signedLow n (s.readX rs) + immInt imm = k)
    (h : ResultRow i (regImm rt rs (addImmTrap n imm)) rt := by exact {}) :
    (-2 ^ (n - 1) ≤ k → k < 2 ^ (n - 1) → CompletesAs i s (s.withX rt (truncSext n k))) ∧
    (k < -2 ^ (n - 1) ∨ 2 ^ (n - 1) ≤ k → s.cfg.maskOvf = true → CompletesAs i s
      (s.withX rt (truncSext n (if k < 0 then -2 ^ (n - 1) else 2 ^ (n - 1) - 1)))) ∧
    (k < -2 ^ (n - 1) ∨ 2 ^ (n - 1) ≤ k → s.cfg.maskOvf = false →
      FaultsInExAs i s (s.faultedInEx i .overflow)) := by
  subst hsum
  have hover := h.overflows hfree rfl
  exact ⟨fun hlo hhi => regImm_completes _ hfree (trapOverflow_of_fits hlo hhi) h,
    fun hk => (hover hk).1, fun hk => (hover hk).2⟩

end

/-! ## The trapping adds (42_int_imm.md R200, R202) -/

/-- The signed value of all 64 bits is that of the word. -/
theorem signedLow_64 (a : Word) : signedLow 64 a = a.toInt := by
  rw [signedLow, BitVec.setWidth_eq]

/-- At 64 bits nothing is extended. -/
theorem truncSext_64 (k : Int) : truncSext 64 k = BitVec.ofInt 64 k := by
  rw [truncSext, sextFrom, BitVec.signExtend_eq]

/-- Settles O15: both widths are `addImmTrap_alone`. -/
theorem trappingImmediateAdds : Obligations.TrappingImmediateAdds := by
  intro s rt rs imm hfree
  have sum32 := addImmTrap_alone (i := .addi rt rs imm) (n := 32) hfree rfl
  have sum64 := addImmTrap_alone (i := .daddi rt rs imm) (n := 64) hfree
    (congrArg (· + immInt imm) (signedLow_64 _))
  rw [truncSext_sat32] at sum32
  rw [truncSext_sat64, truncSext_64] at sum64
  exact ⟨sum32, sum64⟩

/-! ## The other immediate instructions (42_int_imm.md R201, R203 to R209) -/

/-- The low 32 bits of the sign-extended immediate are the immediate sign-extended to 32 bits. -/
theorem immSigned_setWidth32 (imm : Nat) :
    (immSigned imm).setWidth 32 = (BitVec.ofNat 16 imm).signExtend 32 := by
  ext j hj
  have hj64 : j < 64 := by omega
  simp [immSigned, sextFrom, BitVec.getElem_signExtend, hj64]

theorem addImmWrap32_eq (imm : Nat) (a : Word) : addImmWrap32 imm a =
    .value ((a.setWidth 32 + (BitVec.ofNat 16 imm).signExtend 32).signExtend 64) := by
  rw [← immSigned_setWidth32]
  exact addWrap32_eq a (immSigned imm)

/-- Sign extension keeps the signed value of the immediate. -/
theorem immSigned_toInt (imm : Nat) : (immSigned imm).toInt = immInt imm :=
  BitVec.toInt_signExtend_of_le (by decide)

/-- The compare with the integer is the signed compare with the extended word. -/
theorem sltImm_eq (imm : Nat) (a : Word) :
    sltImm imm a = .value (if a.slt (immSigned imm) then 1#64 else 0#64) := by
  rw [sltImm, ← immSigned_toInt]
  rfl

/-- Sixteen zeros appended are a shift by 16, which drops what the 16-bit field does not hold. -/
theorem immUpper_eq (imm : Nat) :
    immUpper imm = (BitVec.ofNat 32 imm <<< 16).signExtend 64 := by
  have hshift : BitVec.ofNat 16 imm ++ 0#16 = BitVec.ofNat 32 imm <<< 16 := by
    apply BitVec.eq_of_toNat_eq
    simp only [BitVec.toNat_append, BitVec.toNat_shiftLeft, BitVec.toNat_ofNat, Nat.zero_mod,
      Nat.or_zero]
    omega
  rw [immUpper, sextFrom, hshift]

/-- Settles O16: each operation is the one of `BitVec` on the register and the extended immediate. -/
theorem immediatesComplete : Obligations.ImmediatesComplete := by
  intro s rt rs imm hfree a si zi
  have hrt : s.free [.x rt] := fun r hr => hfree r (List.mem_cons_of_mem _ hr)
  exact ⟨regImm_completes (addImmWrap32 imm) hfree (addImmWrap32_eq imm a),
    regImm_completes (addImmWrap64 imm) hfree rfl,
    regImm_completes (sltImm imm) hfree (sltImm_eq imm a),
    regImm_completes (sltuImm imm) hfree rfl,
    regImm_completes (andImm imm) hfree rfl,
    regImm_completes (orImm imm) hfree rfl,
    regImm_completes (xorImm imm) hfree rfl,
    immUpper_eq imm ▸ loadUpper_completes hrt⟩

end Sys2Proof.Machine
end

section
/-!
The multiplies (O17) and the divides (O18, O19) alone in the pipeline. Each operation is one of `BitVec`
at its width, shown for every width and used at the two widths of the machine.
-/

namespace Sys2Proof.Machine

/-! ## Products (43_muldiv.md R236) -/

theorem mulLow_eq (n : Nat) (a b : Word) :
    mulLow n a b = .value ((a.setWidth n * b.setWidth n).signExtend 64) := by
  rw [mulLow, productLow, signedProduct, signedLow, signedLow, truncSext, BitVec.ofInt_mul,
    BitVec.ofInt_toInt, BitVec.ofInt_toInt, sextFrom]

/-- The low half of the unsigned product is that of the signed one. -/
theorem muluLow_eq (n : Nat) (a b : Word) :
    muluLow n a b = .value ((a.setWidth n * b.setWidth n).signExtend 64) := by
  rw [muluLow, productLow, unsignedProduct, unsignedLow, unsignedLow, truncSext,
    BitVec.ofInt_natCast, BitVec.ofNat_mul, BitVec.ofNat_toNat, BitVec.ofNat_toNat,
    BitVec.setWidth_eq, BitVec.setWidth_eq, sextFrom]

/-- Sign extension to `2n` bits is the signed reading taken as a `2n`-bit number. -/
theorem mulHigh_eq (n : Nat) (a b : Word) : mulHigh n a b =
    .value ((((a.setWidth n).signExtend (2 * n) * (b.setWidth n).signExtend (2 * n)).extractLsb'
      n n).signExtend 64) := by
  rw [mulHigh, productHigh, signedProduct, signedLow, signedLow, BitVec.ofInt_mul, sextFrom]
  rfl

theorem muluHigh_eq (n : Nat) (a b : Word) : muluHigh n a b =
    .value ((((a.setWidth n).setWidth (2 * n) * (b.setWidth n).setWidth (2 * n)).extractLsb'
      n n).signExtend 64) := by
  rw [muluHigh, productHigh, unsignedProduct, unsignedLow, unsignedLow, BitVec.ofInt_natCast,
    BitVec.ofNat_mul, BitVec.ofNat_toNat, BitVec.ofNat_toNat, sextFrom]

/-- The multiplies of width `n`, by their rows. -/
structure MultiplyRows (n : Nat) (rd rs rt : RegIdx) (mul muh mulu muhu : Instr) : Prop where
  mul : ResultRow mul (regReg rd rs rt (mulLow n)) rd := by exact {}
  muh : ResultRow muh (regReg rd rs rt (mulHigh n)) rd := by exact {}
  mulu : ResultRow mulu (regReg rd rs rt (muluLow n)) rd := by exact {}
  muhu : ResultRow muhu (regReg rd rs rt (muluHigh n)) rd := by exact {}

theorem MultiplyRows.complete {n : Nat} {rd rs rt : RegIdx} {mul muh mulu muhu : Instr} {s : State}
    (h : MultiplyRows n rd rs rt mul muh mulu muhu) (hfree : s.free [.x rs, .x rt, .x rd]) :
    let x := (s.readX rs).setWidth n
    let y := (s.readX rt).setWidth n
    CompletesAs mul s (s.withX rd ((x * y).signExtend 64)) ∧
    CompletesAs muh s (s.withX rd
      (((x.signExtend (2 * n) * y.signExtend (2 * n)).extractLsb' n n).signExtend 64)) ∧
    CompletesAs mulu s (s.withX rd ((x * y).signExtend 64)) ∧
    CompletesAs muhu s (s.withX rd
      (((x.setWidth (2 * n) * y.setWidth (2 * n)).extractLsb' n n).signExtend 64)) :=
  ⟨regReg_completes (mulLow n) hfree (mulLow_eq ..) h.mul,
    regReg_completes (mulHigh n) hfree (mulHigh_eq ..) h.muh,
    regReg_completes (muluLow n) hfree (muluLow_eq ..) h.mulu,
    regReg_completes (muluHigh n) hfree (muluHigh_eq ..) h.muhu⟩

/-- Settles O17: both widths are `MultiplyRows.complete`; at 64 bits nothing is cut off or extended. -/
theorem multipliesComplete : Obligations.MultipliesComplete := by
  intro s rd rs rt hfree a b a32 b32
  have rows32 : MultiplyRows 32 rd rs rt
    (.mul rd rs rt) (.muh rd rs rt) (.mulu rd rs rt) (.muhu rd rs rt) := {}
  have rows64 : MultiplyRows 64 rd rs rt
    (.dmul rd rs rt) (.dmuh rd rs rt) (.dmulu rd rs rt) (.dmuhu rd rs rt) := {}
  obtain ⟨mul, muh, mulu, muhu⟩ := rows32.complete hfree
  have run64 := rows64.complete hfree
  simp only [BitVec.setWidth_eq, BitVec.signExtend_eq] at run64
  exact ⟨mul, muh, mulu, muhu, run64⟩

/-! ## Quotients and remainders (43_muldiv.md R237) -/

theorem signedLow_beq_zero (n : Nat) (b : Word) : (signedLow n b == 0) = (b.setWidth n == 0#n) := by
  rw [Bool.eq_iff_iff, beq_iff_eq, beq_iff_eq, signedLow, ← BitVec.toInt_inj, BitVec.toInt_zero]

theorem unsignedLow_beq_zero (n : Nat) (b : Word) :
    (unsignedLow n b == 0) = (b.setWidth n == 0#n) := by
  rw [Bool.eq_iff_iff, beq_iff_eq, beq_iff_eq, unsignedLow, ← BitVec.toNat_inj, BitVec.toNat_zero]

/-- The quotient truncated toward zero and to `n` bits, also where it does not fit: the smallest
integer over -1 wraps to itself. -/
theorem ofInt_tdiv_toInt {n : Nat} (x y : BitVec n) :
    BitVec.ofInt n (x.toInt.tdiv y.toInt) = x.sdiv y :=
  BitVec.eq_of_toInt_eq (by rw [BitVec.toInt_ofInt, BitVec.toInt_sdiv])

theorem divSigned_eq (n : Nat) (a b : Word) : divSigned n a b =
    divGuard (b.setWidth n == 0#n) allOnes64
      (((a.setWidth n).sdiv (b.setWidth n)).signExtend 64) := by
  rw [divSigned, signedLow_beq_zero, signedLow, signedLow, truncSext, ofInt_tdiv_toInt, sextFrom]

theorem modSigned_eq (n : Nat) (a b : Word) : modSigned n a b =
    divGuard (b.setWidth n == 0#n) ((a.setWidth n).signExtend 64)
      (((a.setWidth n).srem (b.setWidth n)).signExtend 64) := by
  rw [modSigned, signedLow_beq_zero, signedLow, signedLow, truncSext, mul_comm, ← Int.tmod_def,
    ← BitVec.toInt_srem, BitVec.ofInt_toInt, sext, sextFrom, sextFrom]

theorem divUnsigned_eq (n : Nat) (a b : Word) : divUnsigned n a b =
    divGuard (b.setWidth n == 0#n) allOnes64 ((a.setWidth n / b.setWidth n).signExtend 64) := by
  rw [divUnsigned, unsignedLow_beq_zero, unsignedLow, unsignedLow, truncSext, BitVec.ofInt_natCast,
    ← BitVec.udiv_def, sextFrom]

theorem modUnsigned_eq (n : Nat) (a b : Word) : modUnsigned n a b =
    divGuard (b.setWidth n == 0#n) ((a.setWidth n).signExtend 64)
      ((a.setWidth n % b.setWidth n).signExtend 64) := by
  rw [modUnsigned, unsignedLow_beq_zero, unsignedLow, unsignedLow, truncSext, BitVec.ofInt_natCast,
    ← BitVec.umod_def, sext, sextFrom, sextFrom]

/-! ## A row that divides, alone (43_muldiv.md R238) -/

section
variable {i : Instr} {rd rs rt : RegIdx} {s : State} {op : Word → Word → ArithRes} {n : Nat}
  {y : BitVec n} {fallback v : Word}

theorem ResultRow.divides (h : ResultRow i (regReg rd rs rt op) rd)
    (hfree : s.free [.x rs, .x rt, .x rd])
    (hop : op (s.readX rs) (s.readX rt) = divGuard (y == 0#n) fallback v) (hy : y ≠ 0#n) :
    CompletesAs i s (s.withX rd v) :=
  regReg_completes op hfree (hop.trans (if_neg (mt beq_iff_eq.mp hy))) h

/-- The gate passes the fallback or raises DivideByZero (60_exceptions.md R356). -/
theorem ResultRow.dividesByZero (h : ResultRow i (regReg rd rs rt op) rd)
    (hfree : s.free [.x rs, .x rt, .x rd])
    (hop : op (s.readX rs) (s.readX rt) = divGuard (y == 0#n) fallback v) (hy : y = 0#n) :
    (s.cfg.maskDz = true → CompletesAs i s (s.withX rd fallback)) ∧
    (s.cfg.maskDz = false → FaultsInExAs i s (s.faultedInEx i .divideByZero)) := by
  have hx : (regReg rd rs rt op).execute (decodedAlone i (regReg rd rs rt op) s) =
      .result (.fault .divideByZero fallback) :=
    congrArg ExAction.result (hop.trans (if_pos (beq_iff_eq.mpr hy)))
  exact ⟨fun hm => h.completes hfree hx (if_pos hm),
    fun hm => h.faults hfree hx (if_neg (Bool.eq_false_iff.mp hm))⟩

end

/-! ## The divides of one width -/

/-- The divides of width `n`, by their rows. -/
structure DivideRows (n : Nat) (rd rs rt : RegIdx) (div mod divu modu : Instr) : Prop where
  div : ResultRow div (regReg rd rs rt (divSigned n)) rd := by exact {}
  mod : ResultRow mod (regReg rd rs rt (modSigned n)) rd := by exact {}
  divu : ResultRow divu (regReg rd rs rt (divUnsigned n)) rd := by exact {}
  modu : ResultRow modu (regReg rd rs rt (modUnsigned n)) rd := by exact {}

theorem divideRows32 (rd rs rt : RegIdx) : DivideRows 32 rd rs rt
    (.div rd rs rt) (.mod rd rs rt) (.divu rd rs rt) (.modu rd rs rt) := {}

theorem divideRows64 (rd rs rt : RegIdx) : DivideRows 64 rd rs rt
    (.ddiv rd rs rt) (.dmod rd rs rt) (.ddivu rd rs rt) (.dmodu rd rs rt) := {}

section
variable {n : Nat} {rd rs rt : RegIdx} {div mod divu modu : Instr} {s : State}

theorem DivideRows.complete (h : DivideRows n rd rs rt div mod divu modu)
    (hfree : s.free [.x rs, .x rt, .x rd]) :
    let x := (s.readX rs).setWidth n
    let y := (s.readX rt).setWidth n
    y ≠ 0#n →
      CompletesAs div s (s.withX rd ((x.sdiv y).signExtend 64)) ∧
      CompletesAs mod s (s.withX rd ((x.srem y).signExtend 64)) ∧
      CompletesAs divu s (s.withX rd ((x / y).signExtend 64)) ∧
      CompletesAs modu s (s.withX rd ((x % y).signExtend 64)) :=
  fun hy => ⟨h.div.divides hfree (divSigned_eq ..) hy,
    h.mod.divides hfree (modSigned_eq ..) hy,
    h.divu.divides hfree (divUnsigned_eq ..) hy,
    h.modu.divides hfree (modUnsigned_eq ..) hy⟩

theorem DivideRows.zeroDivisor (h : DivideRows n rd rs rt div mod divu modu)
    (hfree : s.free [.x rs, .x rt, .x rd]) (i : Instr) (v : Word)
    (hy : (s.readX rt).setWidth n = 0#n)
    (hi : ((i = div ∨ i = divu) ∧ v = 0xFFFFFFFFFFFFFFFF#64) ∨
      ((i = mod ∨ i = modu) ∧ v = ((s.readX rs).setWidth n).signExtend 64)) :
    (s.cfg.maskDz = true → CompletesAs i s (s.withX rd v)) ∧
    (s.cfg.maskDz = false → FaultsInExAs i s (s.faultedInEx i .divideByZero)) := by
  obtain ⟨rfl | rfl, rfl⟩ | ⟨rfl | rfl, rfl⟩ := hi
  case inl.inl => exact h.div.dividesByZero hfree (divSigned_eq ..) hy
  case inl.inr => exact h.divu.dividesByZero hfree (divUnsigned_eq ..) hy
  case inr.inl => exact h.mod.dividesByZero hfree (modSigned_eq ..) hy
  case inr.inr => exact h.modu.dividesByZero hfree (modUnsigned_eq ..) hy

end

/-- Settles O18: both widths are `DivideRows.complete`. -/
theorem dividesComplete : Obligations.DividesComplete := by
  intro s rd rs rt hfree a b a32 b32
  have run64 := (divideRows64 rd rs rt).complete hfree
  simp only [BitVec.setWidth_eq, BitVec.signExtend_eq] at run64
  exact ⟨(divideRows32 rd rs rt).complete hfree, run64⟩

/-- Settles O19: both widths are `DivideRows.zeroDivisor`. -/
theorem divideByZero : Obligations.DivideByZero := by
  intro s rd rs rt hfree
  have run64 := (divideRows64 rd rs rt).zeroDivisor hfree
  simp only [BitVec.setWidth_eq, BitVec.signExtend_eq] at run64
  exact ⟨(divideRows32 rd rs rt).zeroDivisor hfree, run64⟩

end Sys2Proof.Machine
end

section
/-!
A load (O20) or a store (O21) alone in the pipeline whose access passes its checks.
-/

namespace Sys2Proof.Machine

/-! ## An access alone that passes its checks (20_memory.md R70, 44_loadstore.md R261) -/

theorem State.free_pair {s : State} {p q : RegRef} (hp : s.free [p]) (hq : s.free [q]) :
    s.free [p, q] :=
  List.forall_mem_cons.mpr ⟨hp p List.mem_cons_self, hq⟩

theorem State.free_of_sem {s : State} {r : RegRef} (h : s.sem r = 0) : s.free [r] :=
  List.forall_mem_singleton.mpr fun _ => h

/-- The entry of `i` after its executeHook, before `done` is set: its effective address stands in it. -/
def addressedAlone (i : Instr) (b : Behaviour) (s : State) (rs : RegIdx) (imm : Nat) : Entry :=
  { decodedAlone i b s with ea := effectiveAddress (s.readX rs) imm }

section
variable {i : Instr} {b : Behaviour} {rs : RegIdx} {imm n : Nat} {s : State}

theorem AccessRow.execute_alone (h : AccessRow i b rs imm n) :
    b.execute (decodedAlone i b s) = .address (effectiveAddress (s.readX rs) imm) := by
  obtain ⟨rest, hrest⟩ := List.head?_eq_some_iff.mp h.base
  rw [h.address]
  simp [decodedAlone, latch, hrest, State.readReg]

/-- What passes its checks in the state the instruction started from passes them in MEM. -/
theorem aloneIn_accessible {ea : Word} (h : s.Accessible ea n) (st : Stage) (e : Entry) (pc : Word)
    (fe : Bool) : (aloneIn b s st e pc fe).Accessible ea n :=
  ⟨h.aligned, (aloneIn_params b s st e pc fe).symm ▸ h.inRange,
    (aloneIn_portBusy b s st e pc fe).trans h.free⟩

theorem aloneIn_memRead (st : Stage) (e : Entry) (pc : Word) (fe : Bool) (ea : Word) :
    (aloneIn b s st e pc fe).memRead ea n = Memory.readBytes s.dmem ea.toNat n := by
  rw [State.memRead, aloneIn, State.withFront, State.claimDst_dmem]

/-- An access alone whose memoryHook leaves the entry `k` and data memory `m` runs to its end. -/
theorem AccessRow.completes {k : Entry} {m : Memory 8} (h : AccessRow i b rs imm n)
    (hu : b.Unhindered s)
    (hm : memoryHook b (addressedAlone i b s rs imm)
      (aloneIn b s .MEM (addressedAlone i b s rs imm) (b.pcAfter s) (b.fetchAfter s)) =
      { aloneIn b s .MEM { k with done := true } (b.pcAfter s) (b.fetchAfter s) with dmem := m })
    (hdst : k.dst = effectiveDst b.dst) (hcl : k.claimed = (effectiveDst b.dst).isSome) :
    CompletesAs i s (b.outcome s k.res m) := by
  obtain ⟨t, hrun, hslots, hdrained⟩ := alone_runs h.row hu (k1 := addressedAlone i b s rs imm)
    (alone_address h.row (e := decodedAlone i b s) h.execute_alone) hm hdst hcl
  refine ⟨t, _, hrun, hslots, by rw [h.runsOn]; rfl, hdrained.trans ?_⟩
  rw [h.runsOn]
  cases hd : effectiveDst b.dst with
  | none => simp only [Behaviour.outcome, hd]; rfl
  | some d => cases d <;> simp [Behaviour.outcome, hd, State.drained, State.writeReg]

end

/-! ## Loads (44_loadstore.md R250 to R256, R262, 46_fpu.md R327) -/

/-- A load advances the pc and writes its destination, a register of either bank. -/
theorem loadRow_outcome (dst : RegRef) (imm : Nat) (rs : RegIdx) (n : Nat) (ext : LoadExt) (s : State)
    (v : Word) : (loadRow dst imm rs n ext).outcome s v s.dmem = s.advanced.writeReg dst v := by
  cases dst with
  | x rt => exact Behaviour.outcome_x v rfl rfl fun _ _ => rfl
  | f ft => exact Behaviour.outcome_f v rfl rfl fun _ _ => rfl

/-- A load alone delivers the `n` bytes at its effective address, extended. -/
theorem load_completes {i : Instr} {rs : RegIdx} {imm n : Nat} {s : State} {v : Word} (dst : RegRef)
    (ext : LoadExt) (hfree : s.free [.x rs, dst])
    (hacc : s.Accessible (effectiveAddress (s.readX rs) imm) n)
    (hv : ext.extend n (Memory.readBytes s.dmem (effectiveAddress (s.readX rs) imm).toNat n) = v)
    (h : RowOf i (loadRow dst imm rs n ext) := by
      exact ⟨fun _ => rfl, rfl, rfl, rfl, rfl, rfl, rfl, rfl, fun _ _ _ => rfl⟩) :
    CompletesAs i s (s.advanced.writeReg dst v) := by
  rw [← loadRow_outcome dst imm rs n ext]
  refine (AccessRow.of_loadRow dst ext h).completes (Behaviour.unhindered_of_free hfree)
    (k := { addressedAlone i _ s rs imm with res := v, resValid := true }) ?_ rfl rfl
  rw [memoryHook_load rfl (aloneIn_accessible hacc ..), aloneIn_memRead, aloneIn_dmem, ← hv]
  rfl

/-- The two loads of one width, which differ in how they extend the bytes `v` (44_loadstore.md R265). -/
theorem bothLoads_complete {signed unsigned : Instr} {rt rs : RegIdx} {imm n : Nat} {s : State}
    {v : BitVec (8 * n)} (hfree : s.free [.x rs, .x rt])
    (hacc : s.Accessible (effectiveAddress (s.readX rs) imm) n)
    (hread : Memory.readBytes s.dmem (effectiveAddress (s.readX rs) imm).toNat n = v.toNat)
    (hsigned : RowOf signed (loadRow (.x rt) imm rs n .signed) := by
      exact ⟨fun _ => rfl, rfl, rfl, rfl, rfl, rfl, rfl, rfl, fun _ _ _ => rfl⟩)
    (hunsigned : RowOf unsigned (loadRow (.x rt) imm rs n .zero) := by
      exact ⟨fun _ => rfl, rfl, rfl, rfl, rfl, rfl, rfl, rfl, fun _ _ _ => rfl⟩) :
    CompletesAs signed s (s.withX rt (v.signExtend 64)) ∧
    CompletesAs unsigned s (s.withX rt (v.setWidth 64)) :=
  ⟨load_completes (.x rt) .signed hfree hacc (by rw [hread, LoadExt.extend_signed_toNat]) hsigned,
    load_completes (.x rt) .zero hfree hacc (by rw [hread, LoadExt.extend_zero_toNat]) hunsigned⟩

/-- A doubleword fills the register: nothing is extended. -/
theorem extend_doubleAt (s : State) (a : Nat) :
    LoadExt.zero.extend 8 (Memory.readBytes s.dmem a 8) = s.doubleAt a := by
  rw [readBytes_eight]
  exact (LoadExt.extend_zero_toNat (n := 8) _).trans (BitVec.setWidth_eq _)

/-- Settles O20: the loads of one width are `bothLoads_complete`, with their bytes as `readBytes_one` to
`readBytes_four` name them; a load of a doubleword has nothing to extend. -/
theorem loadsComplete : Obligations.LoadsComplete := by
  intro s rt rs imm hrs ea
  refine ⟨fun hrt => ?general, fun hsem hacc => ?float⟩
  case general =>
    have hfree := State.free_pair hrs hrt
    exact ⟨fun hacc => bothLoads_complete (n := 1) hfree hacc (readBytes_one s _),
      fun hacc => bothLoads_complete (n := 2) hfree hacc (readBytes_two s _),
      fun hacc => bothLoads_complete (n := 4) hfree hacc (readBytes_four s _),
      fun hacc => load_completes (.x rt) .zero hfree hacc (extend_doubleAt s _)⟩
  case float =>
    exact load_completes (.f rt) .zero (State.free_pair hrs (State.free_of_sem hsem)) hacc
      (extend_doubleAt s _)

/-! ## Stores (44_loadstore.md R257 to R260, R263, 46_fpu.md R328) -/

/-- A store advances the pc and leaves every register. -/
theorem storeRow_outcome (data : RegRef) (imm : Nat) (rs : RegIdx) (n : Nat) (s : State) (v : Word)
    (m : Memory 8) : (storeRow data imm rs n).outcome s v m = { s.advanced with dmem := m } := by
  simp [Behaviour.outcome, Behaviour.pcAfter, Behaviour.fetchAfter, storeRow, effectiveDst,
    State.advanced]

/-- A store alone stores the low `n` bytes of its data register at its effective address. -/
theorem store_completes {i : Instr} {rs : RegIdx} {imm n : Nat} {s : State} (data : RegRef)
    (hcan : MemoriesCanonical s) (hfree : s.free [.x rs, data])
    (hacc : s.Accessible (effectiveAddress (s.readX rs) imm) n)
    (h : RowOf i (storeRow data imm rs n) := by
      exact ⟨fun _ => rfl, rfl, rfl, rfl, rfl, rfl, rfl, rfl, fun _ _ _ => rfl⟩) :
    ∃ m, CompletesAs i s { s.advanced with dmem := m } ∧
      StoredBytes s { s.advanced with dmem := m } (effectiveAddress (s.readX rs) imm) n
        (s.readReg data) := by
  refine ⟨_, ?_, .of_dmem hcan rfl⟩
  have hrun := (AccessRow.of_storeRow data h).completes (Behaviour.unhindered_of_free hfree)
    (k := addressedAlone i (storeRow data imm rs n) s rs imm)
    (memoryHook_store rfl (aloneIn_accessible hacc ..)) rfl rfl
  rw [storeRow_outcome] at hrun
  exact hrun

/-- Settles O21: each store is `store_completes`. -/
theorem storesComplete : Obligations.StoresComplete := by
  intro s rt rs imm hcan hrs ea
  refine ⟨fun hrt i n hi hacc => ?general, fun hsem hacc => ?float⟩
  case general =>
    have hfree := State.free_pair hrs hrt
    obtain ⟨rfl, rfl⟩ | ⟨rfl, rfl⟩ | ⟨rfl, rfl⟩ | ⟨rfl, rfl⟩ := hi <;>
      exact store_completes (.x rt) hcan hfree hacc
  case float =>
    exact store_completes (.f rt) hcan (State.free_pair hrs (State.free_of_sem hsem)) hacc

end Sys2Proof.Machine
end

section
/-!
The control transfers alone in the pipeline, the conditional branches (O24) and the jumps (O25), and HALT: its
run alone (O26) and the state it ends a run in (O57).
-/

namespace Sys2Proof.Machine

/-! ## A control transfer alone (45_control.md R290, R293) -/

theorem Behaviour.pcAfter_eq_getD (b : Behaviour) (s : State) :
    b.pcAfter s = (b.target s.pc (b.ifSources.map s.readReg)).getD (s.pc + 4#64) := by
  unfold Behaviour.pcAfter
  cases b.target s.pc (b.ifSources.map s.readReg) <;> rfl

/-- Only HALT stops the fetch (10_state.md R47). -/
theorem Behaviour.fetchAfter_of_runsOn {b : Behaviour} (hh : b.halts = false) (s : State) :
    b.fetchAfter s = s.fetchEnable := by
  unfold Behaviour.fetchAfter
  cases b.target s.pc (b.ifSources.map s.readReg) <;> simp [hh]

/-- What the rows of control transfers have in common: they read nothing in ID, access no memory and are
not HALT's. -/
structure TransferRow (i : Instr) (b : Behaviour) : Prop where
  row : RowOf i b := by exact ⟨fun _ => rfl, rfl, rfl, rfl, rfl, rfl, rfl, rfl, nofun⟩
  noDecodeSource : b.idSources = [] := by rfl
  noAccess : b.memory = .nothing := by rfl
  runsOn : b.halts = false := by rfl

section
variable {i : Instr} {b : Behaviour} {s : State} {p : Word}

theorem TransferRow.unhindered (h : TransferRow i b) (hfree : s.free (b.ifSources ++ b.dst.toList)) :
    b.Unhindered s :=
  Behaviour.unhindered_of_free (by simpa [h.noDecodeSource] using hfree)

/-- A transfer that does not link changes the pc alone. -/
theorem TransferRow.completes (h : TransferRow i b) (hfree : s.free b.ifSources) (hd : b.dst = none)
    (hx : ∀ e, b.execute e = .nothing) (hp : b.pcAfter s = p) :
    CompletesAs i s { s with pc := p } := by
  have hu := h.unhindered (by simpa [hd] using hfree)
  obtain ⟨t, e, hrun, hslots, hdone, hdrained⟩ :=
    completes_idle h.row hu h.noAccess (by rw [hd]; rfl) (hx _)
  rw [h.runsOn] at hdone hdrained
  rw [hp, Behaviour.fetchAfter_of_runsOn h.runsOn] at hdrained
  exact ⟨t, e, hrun, hslots, hdone, hdrained⟩

/-- A row that writes a general register and does not stop the fetch, by its pc. -/
theorem Behaviour.outcome_writeX {rd : RegIdx} (hd : b.dst = some (.x rd)) (hh : b.halts = false)
    (v : Word) : b.outcome s v s.dmem = { s.writeX rd v with pc := b.pcAfter s } := by
  simp only [Behaviour.outcome, Behaviour.fetchAfter_of_runsOn hh, hd, effectiveDst]
  by_cases h0 : rd = 0
  · subst h0; rfl
  · simp [h0, State.writeReg, State.writeX]

/-- A transfer that links writes the address after it as well (R293). -/
theorem TransferRow.links {rd : RegIdx} (h : TransferRow i b) (hfree : s.free (b.ifSources ++ [.x rd]))
    (hd : b.dst = some (.x rd)) (hx : ∀ e, b.execute e = .result (.value (nextAddress e.ia)))
    (hp : b.pcAfter s = p) : CompletesAs i s { s.writeX rd (s.pc + 4#64) with pc := p } := by
  have hu := h.unhindered (by simpa [hd] using hfree)
  rw [← hp, ← Behaviour.outcome_writeX hd h.runsOn]
  exact completes_result h.row hu h.runsOn h.noAccess (hx _) rfl

end

/-! ## Conditional branches (45_control.md R280 to R284, R291, 46_fpu.md R325, R326) -/

/-- A branch whose condition on the values of its sources is `c` goes to its target or to the next
instruction. -/
theorem branch_completes {i : Instr} {imm : Nat} {s : State} {sources : List RegRef} {c : Bool}
    (taken : List Word → Bool) (hfree : s.free sources) (hc : taken (sources.map s.readReg) = c)
    (h : TransferRow i (branchRow sources imm taken) := by exact {}) :
    CompletesAs i s (if c then { s with pc := branchesTo s.pc imm } else s.advanced) := by
  have hp : (branchRow sources imm taken).pcAfter s =
      if c then branchesTo s.pc imm else s.pc + 4#64 := by
    rw [Behaviour.pcAfter_eq_getD, branchRow_pc, ← hc]
    rfl
  have hrun := h.completes hfree rfl (fun _ => rfl) hp
  cases c <;> exact hrun

/-- Bit 0 of a word is its remainder by 2. -/
theorem getLsbD_zero_eq_mod (v : Word) : v.getLsbD 0 = (v.toNat % 2 == 1) :=
  Nat.testBit_zero v.toNat

theorem not_getLsbD_zero_eq_mod (v : Word) : (!v.getLsbD 0) = (v.toNat % 2 == 0) := by
  rw [getLsbD_zero_eq_mod]
  rcases Nat.mod_two_eq_zero_or_one v.toNat with h | h <;> rw [h] <;> rfl

/-- Settles O24: the condition of each branch is that of its row, bit 0 read as a remainder. -/
theorem branchesComplete : Obligations.BranchesComplete := by
  intro s rs rt imm taken go
  refine ⟨fun hfree => ⟨?beq, ?bne⟩, fun hfree => ⟨?blez, ?bgtz, ?bgez⟩,
    fun hsem => ⟨?bc1eqz, ?bc1nez⟩⟩
  case beq => exact branch_completes (fun vs => src0 vs == src1 vs) hfree rfl
  case bne => exact branch_completes (fun vs => src0 vs != src1 vs) hfree rfl
  case blez => exact branch_completes (fun vs => decide ((src0 vs).toInt ≤ 0)) hfree rfl
  case bgtz => exact branch_completes (fun vs => decide ((src0 vs).toInt > 0)) hfree rfl
  case bgez => exact branch_completes (fun vs => decide ((src0 vs).toInt ≥ 0)) hfree rfl
  case bc1eqz =>
    exact branch_completes (fun vs => !(src0 vs).getLsbD 0) (State.free_of_sem hsem)
      (not_getLsbD_zero_eq_mod (s.readF rt))
  case bc1nez =>
    exact branch_completes (fun vs => (src0 vs).getLsbD 0) (State.free_of_sem hsem)
      (getLsbD_zero_eq_mod (s.readF rt))

/-! ## Jumps (45_control.md R285 to R288, R293, R294) -/

/-- Settles O25: J and JR change the pc alone, JAL and JALR link as well; the targets are those of their
rows. -/
theorem jumpsComplete : Obligations.JumpsComplete := by
  intro s rd rs index target
  refine ⟨?j, fun hfree => ?jal, fun hfree => ?jr, fun hfree => ?jalr⟩
  case j => exact TransferRow.completes (b := jumpRow index none) {} nofun rfl (fun _ => rfl) rfl
  case jal =>
    exact TransferRow.links (b := linking (jumpRow index (some (.x 31)))) {} hfree rfl (fun _ => rfl) rfl
  case jr => exact TransferRow.completes (b := jumpRegRow rs none) {} hfree rfl (fun _ => rfl) rfl
  case jalr =>
    exact TransferRow.links (b := linking (jumpRegRow rs (some (.x rd)))) {} hfree rfl (fun _ => rfl) rfl

/-! ## HALT (45_control.md R289) -/

theorem haltRow_rowOf : RowOf .halt haltRow :=
  ⟨fun _ => rfl, rfl, rfl, rfl, rfl, rfl, rfl, rfl, fun _ _ _ => rfl⟩

/-- HALT names no register, so no state hinders it. -/
theorem haltRow_unhindered (s : State) : haltRow.Unhindered s := ⟨nofun, nofun, nofun⟩

theorem haltRow_outcome (s : State) (v : Word) :
    haltRow.outcome s v s.dmem = { s.advanced with fetchEnable := false } := by
  simp [Behaviour.outcome, Behaviour.pcAfter, Behaviour.fetchAfter, haltRow, effectiveDst,
    State.advanced]

/-- Settles O26: HALT alone has no executeHook and no access, so its entry comes to WB as its decodeHook
left it. -/
theorem haltCompletes : Obligations.HaltCompletes := by
  intro s
  obtain ⟨t, hrun, hslots, hdrained⟩ := alone_runs haltRow_rowOf (haltRow_unhindered s)
    (k := decodedAlone .halt haltRow s) (m := s.dmem)
    (alone_idle haltRow_rowOf (e := decodedAlone .halt haltRow s) rfl)
    ((memoryHook_idle rfl s _ _ _).trans (aloneIn_dmem haltRow s .MEM _ _ _).symm) rfl rfl
  rw [haltRow_outcome] at hdrained
  exact ⟨t, _, hrun, hslots, rfl, rfl, rfl, rfl, rfl, hdrained⟩

theorem Stage.mem_younger_WB {o : Stage} : o ∈ Stage.WB.younger ↔ o ≠ .WB := by
  cases o <;> decide

/-- Behind a HALT in WB nothing stands. -/
theorem HaltLast.emptyBut {s : State} {e : Entry} (hi : HaltLast s) (he : s.slot .WB = some e)
    (hh : e.isHalt = true) : s.EmptyBut .WB := fun o ho =>
  hi.youngest .WB e o he hh (Stage.mem_younger_WB.mpr ho)

/-- Slots that hold the same in every stage are the same. -/
theorem Slots.ext_get {p q : Slots} (h : ∀ st, p.get st = q.get st) : p = q := by
  cases p
  cases q
  congr
  exacts [h .IF, h .ID, h .EX, h .MEM, h .WB]

/-- The slots of a pipeline with one entry. -/
theorem State.EmptyBut.slots_eq {s : State} {p : Stage} {e : Entry} (h : s.EmptyBut p)
    (he : s.slot p = some e) : s.slots = Slots.only p e := by
  refine Slots.ext_get fun o => ?_
  rw [Slots.only, Slots.get_set]
  split
  · subst o
    exact he
  · exact (h o (Ne.symm ‹_›)).trans (by cases o <;> rfl)

/-- An empty stage holds no claim. -/
theorem State.unclaimedAt_of_none {s : State} {st : Stage} (h : s.slot st = none) :
    s.unclaimedAt st := fun e he => by rw [h] at he; cases he

/-- Where no stage holds a claim every semaphore is 0 (10_state.md R32). -/
theorem SemInv.sem_eq_zero {s : State} (hi : SemInv s) (h : ∀ st, s.unclaimedAt st) (r : RegRef) :
    s.sem r = 0 := by
  rw [hi.counts]
  simp [State.claimCount, State.claimsAt_unclaimed (h _)]

/-- Settles O57: the HALT in WB has nothing behind it and no claim of its own, so nothing is claimed. -/
theorem haltedIsDrained : Obligations.HaltedIsDrained := by
  intro s hi hrun
  obtain ⟨e, he, hh⟩ := hi.halt.halted hrun
  have halone := hi.halt.emptyBut he hh
  have hclaims : ∀ st, s.unclaimedAt st := fun st => by
    by_cases hst : st = .WB
    · exact hst ▸ hi.semaphores.retiredUnclaimed
    · exact State.unclaimedAt_of_none (halone st hst)
  exact ⟨hi.semaphores.sem_eq_zero hclaims, e, halone.slots_eq he, Entry.isHalt_iff.mp hh⟩

end Sys2Proof.Machine
end

section
/-!
A floating-point row alone in the pipeline: the moves and sign operations (O27) and the arithmetic and
conversions (O28).
-/

namespace Sys2Proof.Machine

/-! ## The gate (60_exceptions.md R356) -/

theorem ArithRes.Delivers.gate_eq {r : ArithRes} {c : Cfg} {v : Word} (h : r.Delivers c v) :
    r.gate c = .ok v := by
  obtain rfl | ⟨k, rfl, hk⟩ := h
  · rfl
  · exact if_pos hk

theorem ArithRes.Raises.gate_eq {r : ArithRes} {c : Cfg} {k : ArithKind} (h : r.Raises c k) :
    r.gate c = .error k.toFaultKind := by
  obtain ⟨v, rfl, hk⟩ := h
  exact if_neg (Bool.eq_false_iff.mp hk)

/-! ## Rows with a floating-point result (46_fpu.md, 40_stage_hooks.md R131) -/

/-- What the rows of instructions that compute in EX and write `f[fd]` have in common: they are no
transfer, no access and no HALT. -/
structure FloatRow (i : Instr) (b : Behaviour) (fd : RegIdx) : Prop where
  row : RowOf i b := by
    exact ⟨fun _ => rfl, rfl, rfl, rfl, rfl, rfl, rfl, rfl, fun _ _ _ => rfl⟩
  noFetchSource : b.ifSources = [] := by rfl
  dst : b.dst = some (.f fd) := by rfl
  noAccess : b.memory = .nothing := by rfl
  staysOn : ∀ ia vs, b.target ia vs = none := by exact fun _ _ => rfl
  runsOn : b.halts = false := by rfl

section
variable {i : Instr} {b : Behaviour} {fd fs ft : RegIdx} {s : State} {r : ArithRes}

theorem FloatRow.unhindered (h : FloatRow i b fd) (hfree : s.free (b.idSources ++ [.f fd])) :
    b.Unhindered s :=
  Behaviour.unhindered_of_free (by simpa [h.noFetchSource, h.dst] using hfree)

theorem FloatRow.completes {v : Word} (h : FloatRow i b fd)
    (hfree : s.free (b.idSources ++ [.f fd])) (hx : b.execute (decodedAlone i b s) = .result r)
    (hv : r.Delivers s.cfg v) : CompletesAs i s (s.withF fd v) := by
  rw [← Behaviour.outcome_f v h.dst h.runsOn h.staysOn]
  exact completes_result h.row (h.unhindered hfree) h.runsOn h.noAccess hx hv.gate_eq

/-- `f[0]` is claimed like any other floating-point register. -/
theorem FloatRow.claimed (h : FloatRow i b fd) : claimedOf i = some (.f fd) := by
  rw [← h.row.claimed, h.dst]
  rfl

theorem FloatRow.faults {k : ArithKind} (h : FloatRow i b fd)
    (hfree : s.free (b.idSources ++ [.f fd])) (hx : b.execute (decodedAlone i b s) = .result r)
    (hk : r.Raises s.cfg k) : FaultsInExAs i s (s.faultedInEx i k.toFaultKind) := by
  have hsem : s.advanced.sem (.f fd) = 0 := hfree (.f fd) (by simp) nofun
  have hclaim : s.advanced.claimDst (claimedOf i) = s.advanced.withClaim i :=
    State.claimDst_free fun d hd => by
      rw [h.claimed] at hd
      exact Option.some.inj hd ▸ hsem
  refine (faults_in_ex h.row (h.unhindered hfree) h.runsOn h.staysOn hx hk.gate_eq).of_drained ?_
  rw [h.row.claimed, hclaim]
  rfl

/-- An instruction alone whose operation yields `r`: what it delivers is written to `f[fd]`, what it
raises ends the run in EX (60_exceptions.md R356). -/
def DeliversOrFaults (i : Instr) (fd : RegIdx) (s : State) (r : ArithRes) : Prop :=
  (∀ v, r.Delivers s.cfg v → CompletesAs i s (s.withF fd v)) ∧
  (∀ k, r.Raises s.cfg k → FaultsInExAs i s (s.faultedInEx i k.toFaultKind))

theorem FloatRow.deliversOrFaults (h : FloatRow i b fd) (hfree : s.free (b.idSources ++ [.f fd]))
    (hx : b.execute (decodedAlone i b s) = .result r) : DeliversOrFaults i fd s r :=
  ⟨fun _ => h.completes hfree hx, fun _ => h.faults hfree hx⟩

/-- An instruction with two sources does as its operation on the two registers. -/
theorem fpuRow3_alone (op : Word → Word → ArithRes) (hfree : s.free [.f fs, .f ft, .f fd])
    (hr : r = op (s.readF fs) (s.readF ft))
    (h : FloatRow i (fpuRow3 fd fs ft op) fd := by exact {}) : DeliversOrFaults i fd s r :=
  h.deliversOrFaults hfree (congrArg ExAction.result hr.symm)

theorem fpuRow2_alone (op : Word → ArithRes) (hfree : s.free [.f fs, .f fd])
    (hr : r = op (s.readF fs)) (h : FloatRow i (fpuRow2 fd fs op) fd := by exact {}) :
    DeliversOrFaults i fd s r :=
  h.deliversOrFaults hfree (congrArg ExAction.result hr.symm)

theorem fpuRow2_completes {v : Word} (op : Word → ArithRes) (hfree : s.free [.f fs, .f fd])
    (hv : op (s.readF fs) = .value v) (h : FloatRow i (fpuRow2 fd fs op) fd := by exact {}) :
    CompletesAs i s (s.withF fd v) :=
  (fpuRow2_alone op hfree hv.symm h).1 v (.inl rfl)

end

/-! ## Bit 63 (46_fpu.md R314, R316) -/

theorem absBits_eq (v : Word) : absBits v = v &&& 0x7FFFFFFFFFFFFFFF#64 := by
  simp [absBits, writeField]

theorem xor_eq_and_not_or_not_and (v m : Word) : v ^^^ m = (v &&& ~~~m) ||| (~~~v &&& m) := by
  ext j hj
  cases hv : v[j] <;> simp [hv]

theorem negBits_eq (v : Word) : negBits v = v ^^^ 0x8000000000000000#64 := by
  have hbit : ~~~v &&& 0x8000000000000000#64 = if v.msb then 0#64 else 0x8000000000000000#64 := by
    rw [show 0x8000000000000000#64 = BitVec.twoPow 64 63 from rfl, BitVec.and_twoPow,
      BitVec.getLsbD_not, BitVec.msb_eq_getLsbD_last]
    cases v.getLsbD 63 <;> rfl
  rw [xor_eq_and_not_or_not_and, hbit, negBits, writeField, signBit]
  cases v.msb <;> rfl

/-! ## Instructions alone -/

/-- Settles O27: the moves between the banks are rows of their own, DMFC1 one with a general register as
destination. -/
theorem fpMovesComplete : Obligations.FpMovesComplete := by
  intro s fd fs
  refine ⟨fun hfree => ⟨?abs, ?mov, ?neg⟩, fun hfree => ⟨?dmfc1, ?dmtc1⟩⟩
  case abs => exact fpuRow2_completes absOp hfree (congrArg _ (absBits_eq _))
  case mov => exact fpuRow2_completes movOp hfree rfl
  case neg => exact fpuRow2_completes negOp hfree (congrArg _ (negBits_eq _))
  case dmfc1 =>
    exact ResultRow.completes (b := moveRow (.x fd) (.f fs)) {} hfree rfl rfl
  case dmtc1 =>
    have hswap : s.free [.x fd, .f fs] := fun r hr => hfree r ((List.Perm.swap ..).mem_iff.mp hr)
    exact FloatRow.completes (b := moveRow (.f fs) (.x fd)) {} hswap rfl (.inl rfl)

/-- Settles O28: each instruction is its row, SUB.D the sum with bit 63 of the second operand inverted. -/
theorem fpArithmeticCompletes : Obligations.FpArithmeticCompletes := by
  rintro s fd fs ft i r (⟨rfl, hr, hfree⟩ | ⟨rfl, hr, hfree⟩ | ⟨rfl, hr, hfree⟩ | ⟨rfl, hr, hfree⟩ |
    ⟨rfl, hr, hfree⟩ | ⟨rfl, hr, hfree⟩)
  · exact fpuRow3_alone fadd hfree hr
  · exact fpuRow3_alone fsub hfree (by rw [hr, ← negBits_eq]; rfl)
  · exact fpuRow3_alone fmul hfree hr
  · exact fpuRow3_alone fdiv hfree hr
  · exact fpuRow2_alone toLong hfree hr
  · exact fpuRow2_alone ofLong hfree hr

end Sys2Proof.Machine
end

section
/-!
Binary64 data (46_fpu.md R329): what the decoder `classify` reads, in terms of the 63 bits below the
sign. Read as a number they are in the order of the magnitudes they encode.
-/

namespace Sys2Proof.Machine

/-! ## The bits below the sign -/

/-- Exponent and fraction as one number. -/
def lowBits (v : Word) : Nat := (v.setWidth 63).toNat

theorem lowBits_eq_mod (v : Word) : lowBits v = v.toNat % 2 ^ 63 := BitVec.toNat_setWidth 63 v

theorem lowBits_lt (v : Word) : lowBits v < 2 ^ 63 := (v.setWidth 63).isLt

theorem expBits_eq (v : Word) : expBits v = lowBits v / 2 ^ 52 := by
  rw [expBits, lowBits_eq_mod, BitVec.extractLsb'_toNat, Nat.shiftRight_eq_div_pow]
  omega

theorem fracBits_eq (v : Word) : fracBits v = lowBits v % 2 ^ 52 := by
  rw [fracBits, lowBits_eq_mod, BitVec.extractLsb'_toNat, Nat.shiftRight_zero,
    Nat.mod_mod_of_dvd _ (pow_dvd_pow 2 (by decide))]

theorem isFinite_iff_lowBits_lt {v : Word} : IsFinite v ↔ lowBits v < 2047 * 2 ^ 52 := by
  have := lowBits_lt v
  rw [IsFinite, expBits_eq]
  omega

theorem isInfinity_iff_lowBits_eq {v : Word} : IsInfinity v ↔ lowBits v = 2047 * 2 ^ 52 := by
  rw [IsInfinity, expBits_eq, fracBits_eq]
  omega

theorem isZero_iff_lowBits_eq_zero {v : Word} : IsZero v ↔ lowBits v = 0 := by
  rw [IsZero, expBits_eq, fracBits_eq]
  omega

/-- A word is its sign bit above its low bits. -/
theorem withSign_msb_lowBits (v : Word) : withSign v.msb (lowBits v) = v := by
  apply BitVec.eq_of_toNat_eq
  have hv := v.isLt
  rw [withSign, BitVec.toNat_ofNat, BitVec.msb_eq_decide, lowBits_eq_mod]
  simp only [decide_eq_true_eq]
  split <;> omega

theorem msb_withSign (neg : Bool) {low : Nat} (h : low < 2 ^ 63) : (withSign neg low).msb = neg := by
  rw [withSign, BitVec.msb_eq_decide, BitVec.toNat_ofNat]
  cases neg <;> simp <;> omega

theorem lowBits_withSign (neg : Bool) {low : Nat} (h : low < 2 ^ 63) :
    lowBits (withSign neg low) = low := by
  rw [lowBits_eq_mod, withSign, BitVec.toNat_ofNat]
  cases neg <;> simp <;> omega

/-- An infinity is the infinity of its sign. -/
theorem IsInfinity.eq_infinity {v : Word} (h : IsInfinity v) : infinity v.msb = v := by
  rw [infinity, ← isInfinity_iff_lowBits_eq.mp h, withSign_msb_lowBits]

/-! ## Magnitudes -/

/-- The magnitude, in units of 2^-1074, of the datum with the low bits `n`. -/
def unitsOf (n : Nat) : Nat :=
  if n < 2 ^ 52 then n else (2 ^ 52 + n % 2 ^ 52) * 2 ^ (n / 2 ^ 52 - 1)

/-- The magnitude of a datum in units of 2^-1074. -/
def magnitude (v : Word) : Nat := unitsOf (lowBits v)

/-- `m` significant units of `2^k` are encoded with `k` in the exponent field and `m` added below it:
the hidden bit of `m` counts the exponent up by one, and so does a carry out of the fraction. -/
theorem unitsOf_mul_add {k m : Nat} (hm : m ≤ 2 ^ 53) (hk : k = 0 ∨ 2 ^ 52 ≤ m) :
    unitsOf (k * 2 ^ 52 + m) = m * 2 ^ k := by
  obtain hsub | hnorm | hcarry : m < 2 ^ 52 ∨ (2 ^ 52 ≤ m ∧ m < 2 ^ 53) ∨ m = 2 ^ 53 := by omega
  · obtain rfl : k = 0 := by omega
    rw [unitsOf, if_pos (by omega)]
    simp
  · rw [unitsOf, if_neg (by omega), show (k * 2 ^ 52 + m) % 2 ^ 52 = m - 2 ^ 52 by omega,
      show (k * 2 ^ 52 + m) / 2 ^ 52 - 1 = k by omega, Nat.add_sub_cancel' hnorm.1]
  · subst hcarry
    rw [unitsOf, if_neg (by omega), show (k * 2 ^ 52 + 2 ^ 53) % 2 ^ 52 = 0 by omega,
      show (k * 2 ^ 52 + 2 ^ 53) / 2 ^ 52 - 1 = k + 1 by omega, pow_succ 2 k]
    ring

/-- The exponent of the unit of the significand, and the significand. -/
theorem exists_significand (n : Nat) :
    ∃ k m, n = k * 2 ^ 52 + m ∧ m < 2 ^ 53 ∧ (k = 0 ∨ 2 ^ 52 ≤ m) := by
  obtain h | h := Nat.lt_or_ge n (2 ^ 52)
  · exact ⟨0, n, by omega, by omega, .inl rfl⟩
  · exact ⟨n / 2 ^ 52 - 1, 2 ^ 52 + n % 2 ^ 52, by omega, by omega, .inr (by omega)⟩

/-- The next datum is one unit in the last place further from zero. -/
theorem unitsOf_strictMono : StrictMono unitsOf := by
  refine strictMono_nat_of_lt_succ fun n => ?_
  obtain ⟨k, m, rfl, hm, hk⟩ := exists_significand n
  rw [Nat.add_assoc, unitsOf_mul_add hm.le hk, unitsOf_mul_add hm (by omega)]
  exact Nat.mul_lt_mul_of_pos_right m.lt_succ_self (Nat.two_pow_pos k)

@[simp] theorem unitsOf_zero : unitsOf 0 = 0 := rfl

/-- The magnitude by exponent and fraction (R329). -/
theorem magnitude_eq (v : Word) : magnitude v =
    if expBits v = 0 then fracBits v else (2 ^ 52 + fracBits v) * 2 ^ (expBits v - 1) := by
  rw [magnitude, unitsOf, expBits_eq, fracBits_eq]
  refine ite_congr (propext (by omega)) (fun h => ?_) fun _ => rfl
  exact (Nat.mod_eq_of_lt (by omega)).symm

theorem magnitude_eq_zero_iff {v : Word} : magnitude v = 0 ↔ IsZero v := by
  rw [isZero_iff_lowBits_eq_zero]
  exact unitsOf_strictMono.injective.eq_iff' unitsOf_zero

/-! ## The signed value -/

/-- The factor that gives a magnitude its sign. -/
def signFactor (neg : Bool) : ℚ := if neg then -1 else 1

theorem signedUnits_cast (neg : Bool) (n : Nat) : (signedUnits neg n : ℚ) = signFactor neg * n := by
  cases neg <;> simp [signedUnits, signFactor]

@[simp] theorem abs_signFactor (neg : Bool) : |signFactor neg| = 1 := by
  cases neg <;> simp [signFactor]

theorem signFactor_ne_zero (neg : Bool) : signFactor neg ≠ 0 := by
  cases neg <;> simp [signFactor]

theorem signFactor_mul_neg_iff {neg : Bool} {x : ℚ} (hx : 0 < x) :
    signFactor neg * x < 0 ↔ neg = true := by
  cases neg <;> simp [signFactor, hx, hx.le]

theorem signFactor_xor (p q : Bool) : signFactor (p ^^ q) = signFactor p * signFactor q := by
  cases p <;> cases q <;> norm_num [signFactor]

theorem signFactor_div_signFactor (p q : Bool) : signFactor p / signFactor q = signFactor (p ^^ q) := by
  cases p <;> cases q <;> norm_num [signFactor]

theorem signedUnits_even_iff {neg : Bool} {n : Nat} : signedUnits neg n % 2 = 0 ↔ n % 2 = 0 := by
  cases neg
  · simp only [signedUnits, Bool.false_eq_true, if_false]
    omega
  · simp only [signedUnits, if_true]
    omega

theorem signedUnits_eq_zero_iff {neg : Bool} {n : Nat} : signedUnits neg n = 0 ↔ n = 0 := by
  cases neg <;> simp [signedUnits]

theorem magnitude_cast (v : Word) : (magnitude v : ℚ) / 2 ^ 1074 =
    if expBits v = 0 then (fracBits v : ℚ) / 2 ^ 1074
      else (2 ^ 52 + fracBits v : ℚ) * 2 ^ expBits v / 2 ^ 1075 := by
  rw [magnitude_eq]
  split
  · rfl
  · obtain ⟨k, hk⟩ := Nat.exists_eq_succ_of_ne_zero ‹_›
    rw [hk, Nat.succ_eq_add_one, Nat.add_sub_cancel, pow_succ 2 k, pow_succ 2 1074, ← mul_assoc,
      mul_div_mul_right _ _ two_ne_zero]
    push_cast
    rfl

/-- The value of a datum is its sign and magnitude (R329). -/
theorem realValue_eq (v : Word) : realValue v = signedUnits v.msb (magnitude v) / 2 ^ 1074 := by
  rw [realValue, ← magnitude_cast, signedUnits_cast, mul_div_assoc, signFactor]

theorem realValue_eq_zero_iff {v : Word} : realValue v = 0 ↔ IsZero v := by
  rw [realValue_eq, div_eq_zero_iff, or_iff_left (by positivity), Int.cast_eq_zero,
    signedUnits_eq_zero_iff, magnitude_eq_zero_iff]

/-! ## What `classify` reads -/

theorem readField_exponent (v : Word) : readField v 52 11 = expBits v := by
  rw [expBits, BitVec.extractLsb'_toNat, Nat.shiftRight_eq_div_pow]
  rfl

theorem readField_fraction (v : Word) : readField v 0 52 = fracBits v := by
  rw [fracBits, BitVec.extractLsb'_toNat, Nat.shiftRight_eq_div_pow]
  rfl

theorem readField_quiet (v : Word) : (readField v 51 1 == 0) = !v.getLsbD 51 := by
  rw [readField, ← BitVec.testBit_toNat, Nat.testBit_eq_decide_div_mod_eq, pow_one]
  obtain h | h := Nat.mod_two_eq_zero_or_one (v.toNat / 2 ^ 51) <;> rw [h] <;> rfl

theorem classify_of_isNaN {v : Word} (h : IsNaN v) : classify v = .nan (!v.getLsbD 51) := by
  obtain ⟨hexp, hfrac⟩ := h
  simp [classify, readField_exponent, readField_fraction, readField_quiet, hexp, hfrac]

theorem classify_of_isInfinity {v : Word} (h : IsInfinity v) : classify v = .inf v.msb := by
  obtain ⟨hexp, hfrac⟩ := h
  simp [classify, readField_exponent, readField_fraction, signBit, hexp, hfrac]

theorem classify_of_isFinite {v : Word} (h : IsFinite v) :
    classify v = .fin v.msb (magnitude v) := by
  simp only [classify, readField_exponent, readField_fraction, signBit]
  rw [if_neg h, magnitude_eq, ← apply_ite]

theorem datum_cases (v : Word) : IsNaN v ∨ IsInfinity v ∨ IsFinite v := by
  unfold IsNaN IsInfinity IsFinite
  tauto

end Sys2Proof.Machine
end

section
/-!
The compares alone in the pipeline (O29): the bits of two data as sign and magnitude are in the order of
their values.
-/

namespace Sys2Proof.Machine

/-! ## NaNs (46_fpu.md R329) -/

theorem classify_of_not_isNaN {v : Word} (h : ¬IsNaN v) :
    classify v = .inf v.msb ∨ classify v = .fin v.msb (magnitude v) := by
  obtain hnan | hinf | hfin := datum_cases v
  · exact absurd hnan h
  · exact .inl (classify_of_isInfinity hinf)
  · exact .inr (classify_of_isFinite hfin)

theorem classify_isNaN_iff {v : Word} : (classify v).isNaN = true ↔ IsNaN v := by
  by_cases h : IsNaN v
  · simp [classify_of_isNaN h, FNum.isNaN, h]
  · obtain hv | hv := classify_of_not_isNaN h <;> simp [hv, FNum.isNaN, h]

theorem classify_isSignalling_iff {v : Word} :
    (classify v).isSignalling = true ↔ IsSignallingNaN v := by
  by_cases h : IsNaN v
  · simp [classify_of_isNaN h, FNum.isSignalling, IsSignallingNaN, h]
  · obtain hv | hv := classify_of_not_isNaN h <;>
      simp [hv, FNum.isSignalling, IsSignallingNaN, h]

/-! ## The order of the data (46_fpu.md section 5) -/

/-- The value in units of 2^-1074 of the datum with these bits as sign and magnitude. -/
def unitsOfSigned (k : Int) : Int := k.sign * unitsOf k.natAbs

theorem unitsOfSigned_signedUnits (neg : Bool) (n : Nat) :
    unitsOfSigned (signedUnits neg n) = signedUnits neg (unitsOf n) := by
  obtain rfl | hn := Nat.eq_zero_or_pos n
  · cases neg <;> rfl
  · cases neg <;> simp [unitsOfSigned, signedUnits, Int.sign_eq_one_of_pos (Int.natCast_pos.mpr hn)]

theorem unitsOfSigned_strictMono : StrictMono unitsOfSigned := by
  refine strictMono_of_odd_strictMonoOn_nonneg (fun k => ?odd) (fun j hj k hk hjk => ?mono)
  case odd => simp [unitsOfSigned]
  case mono =>
    lift j to Nat using hj
    lift k to Nat using hk
    have hnat : ∀ n : Nat, unitsOfSigned n = unitsOf n := unitsOfSigned_signedUnits false
    rw [hnat, hnat]
    exact Int.ofNat_lt.mpr (unitsOf_strictMono (Int.ofNat_lt.mp hjk))

/-- Infinities are ordered as the data next to the largest finite ones (section 5). -/
theorem unitsOf_infinity : unitsOf (2047 * 2 ^ 52) = 2 ^ 2098 := by
  have h := unitsOf_mul_add (k := 2046) (m := 2 ^ 52) (by decide) (.inr le_rfl)
  rw [show 2047 * 2 ^ 52 = 2046 * 2 ^ 52 + 2 ^ 52 by decide, h, ← pow_add]

theorem orderKey_classify {v : Word} (h : ¬IsNaN v) :
    orderKey (classify v) = unitsOfSigned (signMagnitude v) := by
  have hbits : unitsOfSigned (signMagnitude v) = signedUnits v.msb (magnitude v) :=
    unitsOfSigned_signedUnits v.msb (lowBits v)
  obtain hnan | hinf | hfin := datum_cases v
  · exact absurd hnan h
  · rw [hbits, classify_of_isInfinity hinf, magnitude, isInfinity_iff_lowBits_eq.mp hinf,
      unitsOf_infinity]
    rfl
  · rw [hbits, classify_of_isFinite hfin]
    rfl

/-! ## A compare on every operand pair (46_fpu.md R319 to R322, R332, R333) -/

section
variable {a b : Word} (unordered : Bool) (rel : Int → Int → Bool)

theorem compareNum_of_signalling (h : IsSignallingNaN a ∨ IsSignallingNaN b) :
    compareNum unordered rel (classify a) (classify b) =
      .fault .invalidOperation (maskWord unordered) := by
  rw [compareNum, if_pos]
  rwa [Bool.or_eq_true, classify_isSignalling_iff, classify_isSignalling_iff]

theorem compareNum_of_quiet (ha : ¬IsSignallingNaN a) (hb : ¬IsSignallingNaN b)
    (h : IsNaN a ∨ IsNaN b) :
    compareNum unordered rel (classify a) (classify b) = .value (maskWord unordered) := by
  rw [compareNum, if_neg, if_pos]
  · rwa [Bool.or_eq_true, classify_isNaN_iff, classify_isNaN_iff]
  · rw [Bool.or_eq_true, classify_isSignalling_iff, classify_isSignalling_iff]
    exact not_or.mpr ⟨ha, hb⟩

theorem compareNum_of_ordered (ha : ¬IsNaN a) (hb : ¬IsNaN b) :
    compareNum unordered rel (classify a) (classify b) =
      .value (maskWord (rel (unitsOfSigned (signMagnitude a)) (unitsOfSigned (signMagnitude b)))) := by
  rw [compareNum, if_neg, if_neg, orderKey_classify ha, orderKey_classify hb]
  · rw [Bool.or_eq_true, classify_isNaN_iff, classify_isNaN_iff]
    exact not_or.mpr ⟨ha, hb⟩
  · rw [Bool.or_eq_true, classify_isSignalling_iff, classify_isSignalling_iff]
    exact not_or.mpr ⟨mt And.left ha, mt And.left hb⟩

end

/-- A compare alone whose relation on the values is `holds`. -/
theorem compare_alone {i : Instr} {fd fs ft : RegIdx} {s : State} {op : Word → Word → ArithRes}
    {unordered : Bool} {rel : Int → Int → Bool} {holds : Prop} (hfree : s.free [.f fs, .f ft, .f fd])
    (hop : op (s.readF fs) (s.readF ft) =
      compareNum unordered rel (classify (s.readF fs)) (classify (s.readF ft)))
    (hholds : holds ↔ rel (unitsOfSigned (signMagnitude (s.readF fs)))
      (unitsOfSigned (signMagnitude (s.readF ft))) = true)
    (h : FloatRow i (fpuRow3 fd fs ft op) fd := by exact {}) :
    let a := s.readF fs
    let b := s.readF ft
    (IsSignallingNaN a ∨ IsSignallingNaN b →
      (s.cfg.maskInv = true → CompletesAs i s (s.withF fd (maskWord unordered))) ∧
      (s.cfg.maskInv = false → FaultsInExAs i s (s.faultedInEx i .invalidOperation))) ∧
    (¬IsSignallingNaN a → ¬IsSignallingNaN b → IsNaN a ∨ IsNaN b →
      CompletesAs i s (s.withF fd (maskWord unordered))) ∧
    (¬IsNaN a → ¬IsNaN b → holds → CompletesAs i s (s.withF fd 0xFFFFFFFFFFFFFFFF#64)) ∧
    (¬IsNaN a → ¬IsNaN b → ¬holds → CompletesAs i s (s.withF fd 0#64)) := by
  obtain ⟨hdelivers, hfaults⟩ := fpuRow3_alone op hfree hop.symm h
  refine ⟨fun hsig => ⟨fun hm => ?masked, fun hm => ?unmasked⟩, fun ha hb hnan => ?quiet,
    fun ha hb hrel => ?true, fun ha hb hrel => ?false⟩
  case masked =>
    exact hdelivers _ (.inr ⟨_, compareNum_of_signalling unordered rel hsig, hm⟩)
  case unmasked =>
    exact hfaults _ ⟨_, compareNum_of_signalling unordered rel hsig, hm⟩
  case quiet =>
    exact hdelivers _ (.inl (compareNum_of_quiet unordered rel ha hb hnan))
  case true =>
    refine hdelivers _ (.inl ((compareNum_of_ordered unordered rel ha hb).trans ?_))
    rw [hholds.mp hrel]
    rfl
  case false =>
    refine hdelivers _ (.inl ((compareNum_of_ordered unordered rel ha hb).trans ?_))
    rw [Bool.eq_false_iff.mpr (mt hholds.mpr hrel)]
    rfl

/-- Settles O29: each compare is `compare_alone`, its relation carried over to the bits by
`unitsOfSigned_strictMono`. -/
theorem fpComparesComplete : Obligations.FpComparesComplete := by
  rintro s fd fs ft hfree a b i unordered holds
    (⟨rfl, rfl, hholds⟩ | ⟨rfl, rfl, hholds⟩ | ⟨rfl, rfl, hholds⟩ | ⟨rfl, rfl, hholds⟩)
  case inl => exact compare_alone (op := cmpUn) hfree rfl (hholds.trans (by simp))
  case inr.inl =>
    exact compare_alone (op := cmpEq) hfree rfl (hholds.trans
      (unitsOfSigned_strictMono.injective.eq_iff.symm.trans decide_eq_true_iff.symm))
  case inr.inr.inl =>
    exact compare_alone (op := cmpLt) hfree rfl (hholds.trans
      (unitsOfSigned_strictMono.lt_iff_lt.symm.trans decide_eq_true_iff.symm))
  case inr.inr.inr =>
    exact compare_alone (op := cmpLe) hfree rfl (hholds.trans
      (unitsOfSigned_strictMono.le_iff_le.symm.trans decide_eq_true_iff.symm))

end Sys2Proof.Machine
end

section
/-!
NaNs, infinities and zeros as operands of the arithmetic instructions (O31).
-/

namespace Sys2Proof.Machine

/-! ## Results as words (46_fpu.md R331, R333) -/

theorem infinity_eq (neg : Bool) :
    infinity neg = if neg then 0xFFF0000000000000#64 else 0x7FF0000000000000#64 := by
  cases neg <;> rfl

theorem signedZero_eq (neg : Bool) :
    signedZero neg = if neg then 0x8000000000000000#64 else 0x0000000000000000#64 := by
  cases neg <;> rfl

theorem magnitude_eq_zero_iff_setWidth {v : Word} : magnitude v = 0 ↔ v.setWidth 63 = 0#63 := by
  rw [magnitude_eq_zero_iff, isZero_iff_lowBits_eq_zero, ← BitVec.toNat_inj]
  rfl

/-! ## NaNs (46_fpu.md R331) -/

section
variable {x y : FNum}

theorem arithNum_of_signalling (h : x.isSignalling = true ∨ y.isSignalling = true) :
    addNum x y = invalidArith ∧ mulNum x y = invalidArith ∧ divNum x y = invalidArith :=
  have h : (x.isSignalling || y.isSignalling) = true := (Bool.or_eq_true ..).mpr h
  ⟨if_pos h, if_pos h, if_pos h⟩

theorem arithNum_of_quiet (hx : ¬x.isSignalling = true) (hy : ¬y.isSignalling = true)
    (h : x.isNaN = true ∨ y.isNaN = true) : addNum x y = .value canonicalNaN ∧
      mulNum x y = .value canonicalNaN ∧ divNum x y = .value canonicalNaN := by
  have hquiet : ¬(x.isSignalling || y.isSignalling) = true := by simp [hx, hy]
  unfold addNum mulNum divNum
  rw [if_neg hquiet, if_neg hquiet, if_neg hquiet]
  cases x with
  | nan _ => exact ⟨rfl, rfl, rfl⟩
  | inf _ | fin _ _ =>
    cases y with
    | nan _ => exact ⟨rfl, rfl, rfl⟩
    | inf _ | fin _ _ => exact h.elim nofun nofun

end

/-! ## Finite operands (46_fpu.md R332, R334) -/

section
variable {a b : Word} (ha : IsFinite a) (hb : IsFinite b)
include ha hb

theorem fadd_of_isFinite : fadd a b = addFinite a.msb (magnitude a) b.msb (magnitude b) := by
  rw [fadd, classify_of_isFinite ha, classify_of_isFinite hb]
  rfl

theorem fmul_of_isFinite : fmul a b =
    deliverOrZero (a.msb ^^ b.msb) (magnitude a * magnitude b) (unitsPerOne * unitsPerOne) := by
  rw [fmul, classify_of_isFinite ha, classify_of_isFinite hb]
  rfl

theorem fdiv_of_isFinite : fdiv a b =
    if magnitude b = 0 then
      if magnitude a = 0 then invalidArith else .fault .divideByZero (infinity (a.msb ^^ b.msb))
    else deliverOrZero (a.msb ^^ b.msb) (magnitude a) (magnitude b) := by
  rw [fdiv, classify_of_isFinite ha, classify_of_isFinite hb]
  rfl

end

theorem realValue_add (a b : Word) : realValue a + realValue b =
    ((signedUnits a.msb (magnitude a) + signedUnits b.msb (magnitude b) : Int) : ℚ) / 2 ^ 1074 := by
  rw [realValue_eq, realValue_eq, ← add_div]
  push_cast
  rfl

/-- A zero sum is negative only if both operands are. -/
theorem fadd_of_sum_eq_zero {a b : Word} (ha : IsFinite a) (hb : IsFinite b)
    (h : realValue a + realValue b = 0) : fadd a b = .value (signedZero (a.msb && b.msb)) := by
  rw [realValue_add, div_eq_zero_iff, or_iff_left (by positivity), Int.cast_eq_zero] at h
  rw [fadd_of_isFinite ha hb, addFinite]
  exact if_pos h

/-! ## Infinite operands (46_fpu.md R332, R334) -/

section
variable {a b : Word}

theorem arith_of_isInfinity (ha : IsInfinity a) (hb : IsInfinity b) :
    fadd a b = (if a.msb ^^ b.msb then invalidArith else .value a) ∧
    fmul a b = .value (infinity (a.msb ^^ b.msb)) ∧ fdiv a b = invalidArith := by
  rw [fadd, fmul, fdiv, classify_of_isInfinity ha, classify_of_isInfinity hb]
  refine ⟨?_, rfl, rfl⟩
  rw [← ha.eq_infinity]
  cases a.msb <;> cases b.msb <;> rfl

theorem arith_of_isInfinity_isFinite (ha : IsInfinity a) (hb : IsFinite b) :
    fadd a b = .value a ∧
    fmul a b = (if b.setWidth 63 = 0#63 then invalidArith else .value (infinity (a.msb ^^ b.msb))) ∧
    fdiv a b = .value (infinity (a.msb ^^ b.msb)) := by
  rw [fadd, fmul, fdiv, classify_of_isInfinity ha, classify_of_isFinite hb]
  refine ⟨congrArg _ ha.eq_infinity, ?_, rfl⟩
  rw [if_congr magnitude_eq_zero_iff_setWidth.symm rfl rfl]
  rfl

theorem arith_of_isFinite_isInfinity (ha : IsFinite a) (hb : IsInfinity b) :
    fadd a b = .value b ∧
    fmul a b = (if a.setWidth 63 = 0#63 then invalidArith else .value (infinity (a.msb ^^ b.msb))) ∧
    fdiv a b = .value (signedZero (a.msb ^^ b.msb)) := by
  rw [fadd, fmul, fdiv, classify_of_isFinite ha, classify_of_isInfinity hb]
  refine ⟨congrArg _ hb.eq_infinity, ?_, rfl⟩
  rw [if_congr magnitude_eq_zero_iff_setWidth.symm rfl rfl]
  rfl

end

/-- Settles O31: each clause is one of the lemmas above, for NaNs, infinities and finite operands. -/
theorem fpSpecialOperands : Obligations.FpSpecialOperands := by
  intro a b x inf zero nan invalid
  have hinf : ∀ neg, inf neg = infinity neg := fun neg => (infinity_eq neg).symm
  have hzero : ∀ neg, zero neg = signedZero neg := fun neg => (signedZero_eq neg).symm
  simp only [hinf, hzero]
  refine ⟨fun h => ?signalling, fun ha hb h => ?quiet, arith_of_isInfinity,
    arith_of_isInfinity_isFinite, arith_of_isFinite_isInfinity,
    fun ha hb => ⟨fadd_of_sum_eq_zero ha hb, fun h => ?mul, fun h0 h => ?zero_div,
      fun h0 h => ?zero_zero, fun h0 h => ?div_zero⟩⟩
  case signalling =>
    exact arithNum_of_signalling (h.imp classify_isSignalling_iff.mpr classify_isSignalling_iff.mpr)
  case quiet =>
    exact arithNum_of_quiet (mt classify_isSignalling_iff.mp ha) (mt classify_isSignalling_iff.mp hb)
      (h.imp classify_isNaN_iff.mpr classify_isNaN_iff.mpr)
  case mul =>
    rw [fmul_of_isFinite ha hb]
    exact if_pos (mul_eq_zero.mpr (h.imp magnitude_eq_zero_iff.mpr magnitude_eq_zero_iff.mpr))
  case zero_div =>
    rw [fdiv_of_isFinite ha hb, if_neg (mt magnitude_eq_zero_iff.mp h)]
    exact if_pos (magnitude_eq_zero_iff.mpr h0)
  case zero_zero =>
    rw [fdiv_of_isFinite ha hb, if_pos (magnitude_eq_zero_iff.mpr h)]
    exact if_pos (magnitude_eq_zero_iff.mpr h0)
  case div_zero =>
    rw [fdiv_of_isFinite ha hb, if_pos (magnitude_eq_zero_iff.mpr h)]
    exact if_neg (mt magnitude_eq_zero_iff.mp h0)

end Sys2Proof.Machine
end

section
/-!
Rounding to the nearest integer (46_fpu.md R330) and the conversions (O32).
-/

namespace Sys2Proof.Machine

/-! ## The nearest integer -/

/-- Nearness to a quotient as a statement on integers: twice the rest against the divisor. -/
theorem nearestInteger_div_iff {k n : Int} {d : Nat} (hd : 0 < d) : NearestInteger k (n / d : ℚ) ↔
    2 * (n - k * d).natAbs ≤ d ∧ (2 * (n - k * d).natAbs = d → k % 2 = 0) := by
  have hd' : (0 : ℚ) < d := Nat.cast_pos.mpr hd
  have hdist : |(n / d : ℚ) - k| = ((n - k * d).natAbs : ℚ) / d := by
    rw [div_sub' hd'.ne', abs_div, abs_of_pos hd', mul_comm, Nat.cast_natAbs]
    push_cast
    rfl
  rw [NearestInteger, hdist, div_le_div_iff₀ hd' two_pos, div_eq_div_iff hd'.ne' two_ne_zero, one_mul,
    mul_comm _ (2 : ℚ)]
  norm_cast

/-- `roundDiv` rounds to nearest, ties to even. -/
theorem roundDiv_nearest {n d : Nat} (hd : 0 < d) : NearestInteger (roundDiv n d) (n / d : ℚ) := by
  rw [← Int.cast_natCast n, nearestInteger_div_iff hd]
  have hrest : (n : Int) - (n / d : Nat) * d = (n % d : Nat) := by
    have := Nat.div_add_mod' n d
    omega
  have hnext : (n : Int) - (n / d + 1 : Nat) * d = (n % d : Nat) - d := by
    rw [Nat.cast_succ, add_mul, one_mul, ← sub_sub, hrest]
  have hlt := Nat.mod_lt n hd
  obtain hlow | hhigh | htie : 2 * (n % d) < d ∨ d < 2 * (n % d) ∨ 2 * (n % d) = d := by omega
  · rw [roundDiv, if_pos hlow, hrest]
    omega
  · rw [roundDiv, if_neg hhigh.not_gt, if_pos hhigh, hnext]
    omega
  · rw [roundDiv, if_neg htie.not_lt, if_neg htie.not_gt]
    obtain hq | hq := Nat.mod_two_eq_zero_or_one (n / d)
    · rw [hq, Nat.add_zero, hrest]
      omega
    · rw [hq, hnext]
      omega

theorem NearestInteger.neg {k : Int} {x : ℚ} (h : NearestInteger k x) : NearestInteger (-k) (-x) := by
  have hdist : |-x - ((-k : Int) : ℚ)| = |x - k| := by
    rw [Int.cast_neg, neg_sub_neg, abs_sub_comm]
  obtain ⟨hnear, htie⟩ := h
  refine ⟨hdist.trans_le hnear, fun he => ?_⟩
  have := htie (hdist.symm.trans he)
  omega

/-- Rounding a magnitude rounds the signed value. -/
theorem NearestInteger.signedUnits {m : Nat} {x : ℚ} (h : NearestInteger m x) (neg : Bool) :
    NearestInteger (signedUnits neg m) (signFactor neg * x) := by
  cases neg
  · simpa [Machine.signedUnits, signFactor] using h
  · simpa [Machine.signedUnits, signFactor] using h.neg

/-! ## Conversions (46_fpu.md R317, R318) -/

theorem unitsPerOne_pos : 0 < unitsPerOne := Nat.two_pow_pos _

theorem unitsPerOne_cast : (unitsPerOne : ℚ) = 2 ^ 1074 := by
  rw [unitsPerOne, unitExp, Nat.cast_pow, Nat.cast_ofNat]

theorem realValue_eq_quotient (v : Word) :
    realValue v = signFactor v.msb * (magnitude v / unitsPerOne : ℚ) := by
  rw [realValue_eq, signedUnits_cast, mul_div_assoc, unitsPerOne_cast]

/-- The integer a finite datum is rounded to. -/
def roundedInteger (v : Word) : Int := signedUnits v.msb (roundDiv (magnitude v) unitsPerOne)

theorem roundedInteger_nearest (v : Word) : NearestInteger (roundedInteger v) (realValue v) := by
  rw [realValue_eq_quotient]
  exact (roundDiv_nearest unitsPerOne_pos).signedUnits v.msb

theorem toLong_of_isFinite {v : Word} (h : IsFinite v) : toLong v =
    if fitsSigned 64 (roundedInteger v) then .value (BitVec.ofInt 64 (roundedInteger v))
    else invalidToLong := by
  rw [toLong, classify_of_isFinite h]
  rfl

theorem toLong_of_not_isFinite {v : Word} (h : ¬IsFinite v) : toLong v = invalidToLong := by
  obtain hnan | hinf | hfin := datum_cases v
  · rw [toLong, classify_of_isNaN hnan]
  · rw [toLong, classify_of_isInfinity hinf]
  · exact absurd hfin h

/-- Settles O32: CVT.L.D delivers `roundedInteger` where it fits. -/
theorem fpConversions : Obligations.FpConversions := by
  refine ⟨fun v hv => ⟨roundedInteger v, roundedInteger_nearest v, ?_⟩,
    fun v hv => toLong_of_not_isFinite hv, rfl⟩
  rw [toLong_of_isFinite hv]
  exact if_congr fitsSigned_iff rfl rfl

end Sys2Proof.Machine
end

section
/-!
Rounding in units of a power of two (46_fpu.md R330), and the significand of a result with the exponent
range unbounded, from which R332 tells Overflow and Underflow.
-/

namespace Sys2Proof.Machine

/-! ## Facts about the nearest integer -/

section
variable {k : Int} {x : ℚ}

/-- No integer is nearer, and one as near is the same or the chosen one is even. -/
theorem NearestInteger.le (h : NearestInteger k x) (j : Int) :
    |k - x| ≤ |j - x| ∧ (|k - x| = |j - x| → j = k ∨ k % 2 = 0) := by
  obtain ⟨hnear, htie⟩ := h
  rw [abs_sub_comm] at hnear htie
  by_cases hjk : j = k
  · subst hjk
    exact ⟨le_rfl, fun _ => .inl rfl⟩
  · have hone : (1 : ℚ) ≤ |(j : ℚ) - k| := by
      exact_mod_cast Int.one_le_abs (sub_ne_zero.mpr hjk)
    have htri := abs_sub_le (j : ℚ) x k
    rw [abs_sub_comm x] at htri
    exact ⟨by linarith, fun he => .inr (htie (by linarith))⟩

/-- Nothing crosses an integer in rounding. -/
theorem NearestInteger.le_of_le (h : NearestInteger k x) {j : Int} (hj : (j : ℚ) ≤ x) : j ≤ k := by
  have := (abs_le.mp h.1).2
  have : (j : ℚ) < k + 1 := by linarith
  exact Int.lt_add_one_iff.mp (by exact_mod_cast this)

theorem NearestInteger.ge_of_ge (h : NearestInteger k x) {j : Int} (hj : x ≤ j) : k ≤ j := by
  have := (abs_le.mp h.1).1
  have : (k : ℚ) < j + 1 := by linarith
  exact Int.lt_add_one_iff.mp (by exact_mod_cast this)

/-- An even integer is reached from half below it on. -/
theorem NearestInteger.even_le_iff (h : NearestInteger k x) {j : Int} (hj : j % 2 = 0) :
    j ≤ k ↔ (j : ℚ) - 1 / 2 ≤ x := by
  obtain ⟨hlow, hhigh⟩ := abs_le.mp h.1
  constructor
  · intro hjk
    have : (j : ℚ) ≤ k := Int.cast_le.mpr hjk
    linarith
  · intro hx
    by_contra hkj
    have hk : (k : ℚ) ≤ j - 1 := by exact_mod_cast Int.le_sub_one_iff.mpr (not_le.mp hkj)
    have hdist : x - k = 1 / 2 := by linarith
    have hkj' : (k : ℚ) = j - 1 := by linarith
    have heven := h.2 (by rw [hdist, abs_of_pos one_half_pos])
    have : k = j - 1 := by exact_mod_cast hkj'
    omega

end

/-! ## Scaling by a power of two -/

theorem scaleDen_pos {d : Nat} (hd : 0 < d) (q : Int) : 0 < scaleDen d q := by
  unfold scaleDen
  split
  · exact hd
  · exact Nat.mul_pos hd (Nat.two_pow_pos _)

/-- `n/d` in units of `2^q`. -/
theorem scale_quotient (n d : Nat) (q : Int) :
    (scaleNum n q / scaleDen d q : ℚ) = n / d / 2 ^ q := by
  unfold scaleNum scaleDen
  split
  · obtain ⟨k, rfl⟩ := Int.exists_eq_neg_ofNat (a := q) (by omega)
    rw [neg_neg, Int.toNat_natCast, zpow_neg, zpow_natCast, div_inv_eq_mul, ← mul_div_right_comm]
    push_cast
    rfl
  · obtain ⟨k, rfl⟩ := Int.eq_ofNat_of_zero_le (a := q) (by omega)
    rw [Int.toNat_natCast, zpow_natCast, div_div]
    push_cast
    rfl

section
variable {y : ℚ} {q : Int} {m c : Nat}

/-- A whole number of units bounds what is rounded in that unit. -/
theorem NearestInteger.le_of_units_le (h : NearestInteger m (y / 2 ^ q)) (hc : c * 2 ^ q ≤ y) :
    c ≤ m :=
  Int.ofNat_le.mp (h.le_of_le ((le_div_iff₀ (by positivity)).mpr hc))

theorem NearestInteger.ge_of_units_ge (h : NearestInteger m (y / 2 ^ q)) (hc : y ≤ c * 2 ^ q) :
    m ≤ c :=
  Int.ofNat_le.mp (h.ge_of_ge ((div_le_iff₀ (by positivity)).mpr hc))

end

theorem roundAt_nearest {n d : Nat} (hd : 0 < d) (q : Int) :
    NearestInteger (roundAt n d q) (n / d / 2 ^ q : ℚ) := by
  rw [← scale_quotient]
  exact roundDiv_nearest (scaleDen_pos hd q)

theorem roundDiv_eq_iff {n d : Nat} (hd : 0 < d) : n % d = 0 ↔ (roundDiv n d : ℚ) = n / d := by
  constructor
  · intro h
    rw [roundDiv, h, if_pos (by omega), Nat.cast_div (Nat.dvd_of_mod_eq_zero h) (by positivity)]
  · intro h
    rw [eq_div_iff (by positivity)] at h
    have : roundDiv n d * d = n := by exact_mod_cast h
    rw [← this, Nat.mul_mod_left]

/-- A result is exact if rounding leaves it as it is. -/
theorem exactAt_iff {n d : Nat} (hd : 0 < d) (q : Int) :
    exactAt n d q = true ↔ (roundAt n d q : ℚ) = n / d / 2 ^ q := by
  rw [exactAt, beq_iff_eq, roundDiv_eq_iff (scaleDen_pos hd q), scale_quotient, roundAt]

theorem scaleDen_le_scaleNum_iff {n d : Nat} (hd : 0 < d) (q : Int) :
    scaleDen d q ≤ scaleNum n q ↔ (2 : ℚ) ^ q ≤ n / d := by
  have hden : (0 : ℚ) < scaleDen d q := Nat.cast_pos.mpr (scaleDen_pos hd q)
  have hunit : (0 : ℚ) < 2 ^ q := by positivity
  rw [← one_le_div₀ hunit, ← scale_quotient, one_le_div₀ hden, Nat.cast_le]

/-- A positive number lies between the powers of two that `Nat.log2` gives. -/
theorem zpow_log2_bounds {n : Nat} (hn : 0 < n) :
    (2 : ℚ) ^ (n.log2 : Int) ≤ n ∧ (n : ℚ) < 2 ^ ((n.log2 : Int) + 1) :=
  ⟨by exact_mod_cast Nat.log2_self_le hn.ne', by exact_mod_cast Nat.lt_log2_self⟩

/-- `floorLog2` is the exponent of the binade of `n/d`. -/
theorem floorLog2_spec {n d : Nat} (hn : 0 < n) (hd : 0 < d) :
    (2 : ℚ) ^ floorLog2 n d ≤ n / d ∧ (n / d : ℚ) < 2 ^ (floorLog2 n d + 1) := by
  obtain ⟨hn1, hn2⟩ := zpow_log2_bounds hn
  obtain ⟨hd1, hd2⟩ := zpow_log2_bounds hd
  have hd' : (0 : ℚ) < d := Nat.cast_pos.mpr hd
  have hlow : (2 : ℚ) ^ ((n.log2 : Int) - d.log2 - 1) ≤ n / d := by
    rw [sub_sub, zpow_sub₀ two_ne_zero]
    exact div_le_div₀ (by positivity) hn1 hd' hd2.le
  have hhigh : (n / d : ℚ) < 2 ^ ((n.log2 : Int) - d.log2 + 1) := by
    rw [sub_add_eq_add_sub, zpow_sub₀ two_ne_zero]
    exact div_lt_div₀ hn2 hd1 (by positivity) (by positivity)
  unfold floorLog2
  dsimp only
  split
  · exact ⟨(scaleDen_le_scaleNum_iff hd _).mp ‹_›, hhigh⟩
  · rw [sub_add_cancel]
    exact ⟨hlow, not_le.mp (mt (scaleDen_le_scaleNum_iff hd _).mpr ‹_›)⟩

/-! ## The significand with unbounded exponent range (46_fpu.md R332) -/

/-- `m` is `y` rounded to a significand of 53 bits, in units of `2^q`. -/
structure RoundedSignificand (y : ℚ) (q : Int) (m : Nat) : Prop where
  low : 2 ^ 52 * 2 ^ q ≤ y
  high : y < 2 ^ 53 * 2 ^ q
  nearest : NearestInteger m (y / 2 ^ q)

theorem roundedSignificand_unbounded {n d : Nat} (hn : 0 < n) (hd : 0 < d) :
    RoundedSignificand (n / d) (unboundedUnit n d) (roundAt n d (unboundedUnit n d)) := by
  obtain ⟨hlow, hhigh⟩ := floorLog2_spec hn hd
  have hunit : ∀ k : Nat, (2 : ℚ) ^ k * 2 ^ unboundedUnit n d = 2 ^ (floorLog2 n d + (k - 52)) := by
    intro k
    rw [← zpow_natCast, ← zpow_add₀ two_ne_zero, unboundedUnit]
    congr 1
    ring
  exact ⟨by rw [hunit]; simpa using hlow, by rw [hunit]; simpa using hhigh, roundAt_nearest hd _⟩

section
variable {y : ℚ} {q : Int} {m : Nat}

theorem RoundedSignificand.le (h : RoundedSignificand y q m) : 2 ^ 52 ≤ m :=
  h.nearest.le_of_units_le (by exact_mod_cast h.low)

theorem RoundedSignificand.ge (h : RoundedSignificand y q m) : m ≤ 2 ^ 53 :=
  h.nearest.ge_of_units_ge (by exact_mod_cast h.high.le)

/-- A value rounds to `2^53` units of `2^p`, or beyond, from half a unit below that on. -/
theorem RoundedSignificand.edge_le_iff (h : RoundedSignificand y q m) (p : Int) :
    (2 ^ 53 - 1 / 2) * 2 ^ p ≤ y ↔ p < q ∨ q = p ∧ 2 ^ 53 ≤ m := by
  have hp : (0 : ℚ) < 2 ^ p := by positivity
  obtain hlt | rfl | hgt := lt_trichotomy q p
  · have hle : (2 : ℚ) ^ q ≤ 2 ^ (p - 1) := zpow_le_zpow_right₀ one_le_two (by omega)
    rw [zpow_sub_one₀ two_ne_zero] at hle
    have := h.high
    refine iff_of_false ?_ (by omega)
    linarith
  · have heven := h.nearest.even_le_iff (j := 2 ^ 53) (by decide)
    rw [le_div_iff₀ hp, Int.cast_pow, Int.cast_ofNat] at heven
    rw [← heven]
    simp only [lt_irrefl, true_and, false_or]
    norm_cast
  · have hle : (2 : ℚ) ^ (p + 1) ≤ 2 ^ q := zpow_le_zpow_right₀ one_le_two (by omega)
    rw [zpow_add_one₀ two_ne_zero] at hle
    have := h.low
    refine iff_of_true ?_ (.inl hgt)
    linarith

end

end Sys2Proof.Machine
end

section
/-!
What `deliver` delivers (O30). Counted in the unit `2^q` in the last place of a result, every datum of
magnitude `2^(q+52)` or more is a whole number, so the nearest integer gives the nearest datum; the
smaller data lie closer to each other, but further from the result than `2^(q+52)` does.
-/

namespace Sys2Proof.Machine

/-! ## Overflow and Underflow (46_fpu.md R332) -/

theorem exceedsLargest_iff {m : Nat} (hm : 2 ^ 52 ≤ m) (q : Int) :
    exceedsLargest m q = true ↔ 971 < q ∨ q = 971 ∧ 2 ^ 53 ≤ m := by
  rw [exceedsLargest, Bool.and_eq_true, decide_eq_true_iff, decide_eq_true_iff]
  obtain hlt | rfl | hgt := lt_trichotomy q 971
  · omega
  · rw [show 2 ^ ((971 : Int) - 971).toNat = 1 from rfl]
    omega
  · have hpow : 2 ^ 1 ≤ 2 ^ (q - 971).toNat := Nat.pow_le_pow_right two_pos (by omega)
    have := Nat.mul_le_mul hm hpow
    refine iff_of_true ⟨hgt.le, ?_⟩ (.inl hgt)
    omega

theorem belowSmallestNormal_iff {m : Nat} (hm : m ≤ 2 ^ 53) (q : Int) :
    belowSmallestNormal m q = true ↔ ¬(-1075 < q ∨ q = -1075 ∧ 2 ^ 53 ≤ m) := by
  rw [belowSmallestNormal, Bool.and_eq_true, decide_eq_true_iff, decide_eq_true_iff, minUnit]
  obtain hlt | rfl | hgt := lt_trichotomy q (-1075)
  · have hpow : 2 ^ 54 ≤ 2 ^ (-1022 - q).toNat := Nat.pow_le_pow_right two_pos (by omega)
    refine iff_of_true ⟨by omega, ?_⟩ (by omega)
    omega
  · rw [show ((-1022 : Int) - -1075).toNat = 53 from rfl]
    omega
  · omega

/-- Half a unit of `2^p` below `2^53` units. -/
theorem edge_eq (p : Int) : (2 ^ 53 - 1 / 2) * (2 : ℚ) ^ p = 2 ^ (p + 53) - 2 ^ (p - 1) := by
  rw [zpow_add₀ two_ne_zero, zpow_sub_one₀ two_ne_zero, zpow_ofNat]
  ring

theorem overflow_edge : (2 : ℚ) ^ 1024 - 2 ^ 970 = (2 ^ 53 - 1 / 2) * 2 ^ (971 : Int) := by
  rw [edge_eq, show (971 : Int) + 53 = (1024 : Nat) from rfl,
    show (971 : Int) - 1 = (970 : Nat) from rfl, zpow_natCast, zpow_natCast]

theorem underflow_edge :
    (1 : ℚ) / 2 ^ 1022 - 1 / 2 ^ 1076 = (2 ^ 53 - 1 / 2) * 2 ^ (-1075 : Int) := by
  rw [edge_eq, show (-1075 : Int) + 53 = -(1022 : Nat) from rfl,
    show (-1075 : Int) - 1 = -(1076 : Nat) from rfl, zpow_neg, zpow_neg, zpow_natCast, zpow_natCast,
    one_div, one_div]

section
variable {y : ℚ} {q : Int} {m : Nat} (h : RoundedSignificand y q m)
include h

theorem RoundedSignificand.exceedsLargest_iff :
    exceedsLargest m q = true ↔ 2 ^ 1024 - 2 ^ 970 ≤ y := by
  rw [Machine.exceedsLargest_iff h.le, overflow_edge, h.edge_le_iff]

theorem RoundedSignificand.belowSmallestNormal_iff :
    belowSmallestNormal m q = true ↔ y < 1 / 2 ^ 1022 - 1 / 2 ^ 1076 := by
  rw [Machine.belowSmallestNormal_iff h.ge, underflow_edge, ← h.edge_le_iff, not_le]

end

/-! ## The data as multiples of a unit (46_fpu.md R329) -/

/-- The value of a datum by its significand `m` and the exponent of its unit. -/
theorem realValue_of_significand {v : Word} {k m : Nat} (h : lowBits v = k * 2 ^ 52 + m)
    (hm : m ≤ 2 ^ 53) (hk : k = 0 ∨ 2 ^ 52 ≤ m) :
    realValue v = signedUnits v.msb m * 2 ^ ((k : Int) - 1074) := by
  rw [realValue_eq, magnitude, h, unitsOf_mul_add hm hk, signedUnits_cast, signedUnits_cast,
    zpow_sub₀ two_ne_zero, zpow_natCast, zpow_ofNat, Nat.cast_mul, Nat.cast_pow, Nat.cast_ofNat,
    mul_assoc, mul_div_assoc, mul_div_assoc]

theorem abs_signedUnits_cast (neg : Bool) (n : Nat) : |(signedUnits neg n : ℚ)| = n := by
  cases neg <;> simp [signedUnits]

/-- Only data below `2^52` units of `2^q` may be no multiple of that unit. -/
theorem realValue_multiple_or_small (w : Word) {q : Int} (hq : -1074 ≤ q) :
    (∃ j : Int, realValue w = j * 2 ^ q) ∨ -1074 < q ∧ |realValue w| < 2 ^ 52 * 2 ^ q := by
  obtain ⟨k, m, hw, hm, hk⟩ := exists_significand (lowBits w)
  rw [realValue_of_significand hw hm.le hk]
  obtain hle | hlt := le_or_gt q ((k : Int) - 1074)
  · obtain ⟨e, he⟩ := Int.eq_ofNat_of_zero_le (sub_nonneg.mpr hle)
    refine .inl ⟨signedUnits w.msb m * 2 ^ e, ?_⟩
    rw [← sub_add_cancel ((k : Int) - 1074) q, zpow_add₀ two_ne_zero, he, zpow_natCast, ← mul_assoc]
    push_cast
    rfl
  · refine .inr ⟨by omega, ?_⟩
    have hm' : (m : ℚ) < 2 ^ 53 := by exact_mod_cast hm
    have hle : (2 : ℚ) ^ ((k : Int) - 1074) ≤ 2 ^ (q - 1) := zpow_le_zpow_right₀ one_le_two (by omega)
    rw [abs_mul, abs_signedUnits_cast, abs_of_pos (by positivity)]
    calc (m : ℚ) * 2 ^ ((k : Int) - 1074) ≤ m * 2 ^ (q - 1) := by gcongr
      _ < 2 ^ 53 * 2 ^ (q - 1) := by gcongr
      _ = 2 ^ 52 * 2 ^ q := by rw [zpow_sub_one₀ two_ne_zero]; ring

/-- A datum that is the nearest multiple of the unit of `r` is the nearest datum. -/
theorem nearestEven_of_nearestInteger {v : Word} {r : ℚ} {q j : Int} (hfin : IsFinite v)
    (hv : realValue v = j * 2 ^ q) (hj : NearestInteger j (r / 2 ^ q))
    (heven : j % 2 = 0 → v.getLsbD 0 = false) (hq : -1074 ≤ q)
    (hnormal : -1074 < q → 2 ^ 52 * 2 ^ q ≤ |r|) : NearestEven v r := by
  have hunit : (0 : ℚ) < 2 ^ q := by positivity
  have hdist : ∀ i : Int, |(i : ℚ) * 2 ^ q - r| = |i - r / 2 ^ q| * 2 ^ q := fun i => by
    rw [← abs_of_pos hunit, ← abs_mul, abs_of_pos hunit, sub_mul, div_mul_cancel₀ _ hunit.ne']
  have hbest : ∀ i : Int, |realValue v - r| ≤ |i * 2 ^ q - r| := fun i => by
    rw [hv, hdist, hdist]
    exact mul_le_mul_of_nonneg_right (hj.le i).1 hunit.le
  refine ⟨hfin, fun w _ => ?_⟩
  obtain ⟨i, hw⟩ | ⟨hq', hsmall⟩ := realValue_multiple_or_small w hq
  · refine ⟨hw ▸ hbest i, fun he => ?_⟩
    rw [hw, hv, hdist, hdist, mul_left_inj' hunit.ne'] at he
    obtain rfl | h2 := (hj.le i).2 he
    · exact .inl (hw.trans hv.symm)
    · exact .inr (heven h2)
  · suffices h : |realValue v - r| < |realValue w - r| from ⟨h.le, fun he => absurd he h.ne⟩
    have hbig := hnormal hq'
    obtain ⟨i, hi⟩ : ∃ i : Int, |(i : ℚ) * 2 ^ q - r| = |r| - 2 ^ 52 * 2 ^ q := by
      obtain hr | hr := abs_choice r
      · refine ⟨2 ^ 52, ?_⟩
        rw [abs_sub_comm, abs_of_nonneg] <;> push_cast <;> linarith
      · refine ⟨-2 ^ 52, ?_⟩
        rw [abs_of_nonneg] <;> push_cast <;> linarith
    calc |realValue v - r| ≤ |r| - 2 ^ 52 * 2 ^ q := hi ▸ hbest i
      _ < |r| - |realValue w| := by linarith
      _ ≤ |realValue w - r| := by rw [abs_sub_comm]; exact abs_sub_abs_le_abs_sub r _

/-! ## What is delivered (46_fpu.md R330) -/

/-- The unit in the last place of the datum nearest to `n/d`. -/
def lastPlace (n d : Nat) : Int := max (unboundedUnit n d) minUnit

/-- The datum that is delivered for `±n/d` where it is not too large. -/
def roundedDatum (neg : Bool) (n d : Nat) : Word :=
  packFinite neg (roundAt n d (lastPlace n d)) (lastPlace n d)

/-- `n/d` rounded with unbounded exponent range is too large. -/
def overflows (n d : Nat) : Bool :=
  exceedsLargest (roundAt n d (unboundedUnit n d)) (unboundedUnit n d)

/-- `n/d` rounded with unbounded exponent range is below the normal data. -/
def isTiny (n d : Nat) : Bool :=
  belowSmallestNormal (roundAt n d (unboundedUnit n d)) (unboundedUnit n d)

theorem deliver_eq (neg : Bool) (n d : Nat) : deliver neg n d =
    if overflows n d then .fault .overflow (infinity neg)
    else if isTiny n d && !exactAt n d (lastPlace n d) then .fault .underflow (roundedDatum neg n d)
    else .value (roundedDatum neg n d) := rfl

/-- The bits of `roundedDatum` below the sign. -/
def roundedLowBits (n d : Nat) : Nat :=
  (lastPlace n d - minUnit).toNat * 2 ^ 52 + roundAt n d (lastPlace n d)

theorem lastPlace_cases (n d : Nat) : lastPlace n d = -1074 ∨
    -1074 < lastPlace n d ∧ lastPlace n d = unboundedUnit n d := by
  unfold lastPlace minUnit
  omega

/-- The exponent field is that of the unit, counted from the smallest one. -/
theorem cast_lastPlace_toNat (n d : Nat) :
    ((lastPlace n d - minUnit).toNat : Int) = lastPlace n d + 1074 := by
  have := lastPlace_cases n d
  unfold minUnit
  omega

/-- The last bit is the parity of the low bits. -/
theorem getLsbD_zero_eq (v : Word) : v.getLsbD 0 = decide (lowBits v % 2 = 1) := by
  rw [lowBits_eq_mod, Nat.mod_mod_of_dvd _ (by decide), ← BitVec.testBit_toNat, Nat.testBit_zero]

section
variable {n d : Nat} (hn : 0 < n) (hd : 0 < d)
include hn hd

theorem overflows_iff : overflows n d = true ↔ (2 ^ 1024 - 2 ^ 970 : ℚ) ≤ n / d :=
  (roundedSignificand_unbounded hn hd).exceedsLargest_iff

theorem isTiny_iff : isTiny n d = true ↔ (n / d : ℚ) < 1 / 2 ^ 1022 - 1 / 2 ^ 1076 :=
  (roundedSignificand_unbounded hn hd).belowSmallestNormal_iff

theorem roundAt_lastPlace_le : roundAt n d (lastPlace n d) ≤ 2 ^ 53 := by
  have hle : (n / d : ℚ) ≤ 2 ^ 53 * 2 ^ lastPlace n d :=
    (roundedSignificand_unbounded hn hd).high.le.trans
      (mul_le_mul_of_nonneg_left (zpow_le_zpow_right₀ one_le_two (le_max_left ..)) (by positivity))
  exact (roundAt_nearest hd _).ge_of_units_ge (by exact_mod_cast hle)

/-- A significand is short only where the unit is the smallest. -/
theorem le_roundAt_lastPlace :
    (lastPlace n d - minUnit).toNat = 0 ∨ 2 ^ 52 ≤ roundAt n d (lastPlace n d) := by
  obtain hmin | ⟨-, hq⟩ := lastPlace_cases n d
  · rw [hmin]
    exact .inl rfl
  · rw [hq]
    exact .inr (roundedSignificand_unbounded hn hd).le

/-- Short of Overflow the exponent field stays below that of the infinities. -/
theorem roundedLowBits_lt (h : ¬overflows n d = true) : roundedLowBits n d < 2047 * 2 ^ 52 := by
  rw [overflows, exceedsLargest_iff (roundedSignificand_unbounded hn hd).le] at h
  have hm := roundAt_lastPlace_le hn hd
  have hk := cast_lastPlace_toNat n d
  unfold roundedLowBits
  obtain hmin | ⟨-, hq⟩ := lastPlace_cases n d
  · omega
  · rw [hq] at hm hk ⊢
    omega

section
variable (neg : Bool) (h : ¬overflows n d = true)
include h

theorem roundedDatum_msb : (roundedDatum neg n d).msb = neg :=
  msb_withSign neg ((roundedLowBits_lt hn hd h).trans (by decide))

theorem lowBits_roundedDatum : lowBits (roundedDatum neg n d) = roundedLowBits n d :=
  lowBits_withSign neg ((roundedLowBits_lt hn hd h).trans (by decide))

theorem realValue_roundedDatum : realValue (roundedDatum neg n d) =
    signedUnits neg (roundAt n d (lastPlace n d)) * 2 ^ lastPlace n d := by
  rw [realValue_of_significand (lowBits_roundedDatum hn hd neg h) (roundAt_lastPlace_le hn hd)
    (le_roundAt_lastPlace hn hd), roundedDatum_msb hn hd neg h, cast_lastPlace_toNat,
    add_sub_cancel_right]

/-- The datum is the nearest one to `±n/d`. -/
theorem roundedDatum_nearestEven :
    NearestEven (roundedDatum neg n d) (signFactor neg * (n / d : ℚ)) := by
  refine nearestEven_of_nearestInteger (isFinite_iff_lowBits_lt.mpr ?finite)
    (realValue_roundedDatum hn hd neg h) ?nearest (fun heven => ?even) (le_max_right ..)
    (fun hq => ?normal)
  case finite =>
    rw [lowBits_roundedDatum hn hd neg h]
    exact roundedLowBits_lt hn hd h
  case nearest =>
    rw [mul_div_assoc]
    exact (roundAt_nearest hd _).signedUnits neg
  case even =>
    have hm := signedUnits_even_iff.mp heven
    rw [getLsbD_zero_eq, lowBits_roundedDatum hn hd neg h, roundedLowBits, decide_eq_false_iff_not]
    omega
  case normal =>
    obtain hmin | ⟨-, hunit⟩ := lastPlace_cases n d
    · exact absurd hmin hq.ne'
    · rw [hunit, abs_mul, abs_signFactor, one_mul, abs_of_nonneg (by positivity)]
      exact (roundedSignificand_unbounded hn hd).low

/-- An exact datum is the value itself. -/
theorem exactAt_lastPlace_iff : exactAt n d (lastPlace n d) = true ↔
    realValue (roundedDatum neg n d) = signFactor neg * (n / d : ℚ) := by
  rw [exactAt_iff hd, realValue_roundedDatum hn hd neg h, signedUnits_cast, mul_assoc,
    mul_right_inj' (signFactor_ne_zero neg), eq_div_iff (by positivity)]

end

/-- The outcome of an exact non-zero result. -/
theorem deliver_roundsTo (neg : Bool) :
    RoundsTo (deliver neg n d) (signFactor neg * (n / d : ℚ)) := by
  have hpos : (0 : ℚ) < n / d := div_pos (Nat.cast_pos.mpr hn) (Nat.cast_pos.mpr hd)
  have habs : |signFactor neg * (n / d : ℚ)| = n / d := by
    rw [abs_mul, abs_signFactor, one_mul, abs_of_pos hpos]
  have hneg := signFactor_mul_neg_iff (neg := neg) hpos
  rw [RoundsTo, habs, deliver_eq]
  by_cases h : overflows n d = true
  · rw [if_pos h, if_pos ((overflows_iff hn hd).mp h), infinity_eq, if_congr hneg rfl rfl]
  · rw [if_neg h, if_neg (mt (overflows_iff hn hd).mpr h)]
    refine ⟨roundedDatum neg n d, roundedDatum_nearestEven hn hd neg h, ?_, if_congr ?_ rfl rfl⟩
    · rw [roundedDatum_msb hn hd neg h, Bool.eq_iff_iff, decide_eq_true_iff, hneg]
    · rw [Bool.and_eq_true, isTiny_iff hn hd, Bool.not_eq_true', ← Bool.not_eq_true,
        exactAt_lastPlace_iff hn hd neg h]

end

/-! ## The operations (46_fpu.md R310 to R313, R318) -/

theorem deliverOrZero_roundsTo {neg : Bool} {n d : Nat} {r : ℚ} (hd : 0 < d) (hr : r ≠ 0)
    (h : signFactor neg * (n / d : ℚ) = r) : RoundsTo (deliverOrZero neg n d) r := by
  subst h
  have hn : n ≠ 0 := fun h0 => hr (by rw [h0, Nat.cast_zero, zero_div, mul_zero])
  rw [deliverOrZero, if_neg hn]
  exact deliver_roundsTo (Nat.pos_of_ne_zero hn) hd neg

/-- An integer is its sign and its magnitude. -/
theorem signFactor_mul_natAbs (k : Int) : signFactor (decide (k < 0)) * k.natAbs = (k : ℚ) := by
  rw [Nat.cast_natAbs]
  obtain h | h := lt_or_ge k 0
  · simp [signFactor, h, abs_of_neg h]
  · simp [signFactor, h.not_gt, abs_of_nonneg h]

section
variable {a b : Word} (ha : IsFinite a) (hb : IsFinite b)
include ha hb

theorem fadd_roundsTo (h : realValue a + realValue b ≠ 0) :
    RoundsTo (fadd a b) (realValue a + realValue b) := by
  rw [fadd_of_isFinite ha hb, addFinite]
  rw [realValue_add] at h ⊢
  generalize signedUnits a.msb (magnitude a) + signedUnits b.msb (magnitude b) = k at *
  have hk : k ≠ 0 := fun h0 => h (by rw [h0, Int.cast_zero, zero_div])
  rw [← signFactor_mul_natAbs, mul_div_assoc, ← unitsPerOne_cast, if_neg hk]
  exact deliver_roundsTo (Int.natAbs_pos.mpr hk) unitsPerOne_pos _

theorem fmul_roundsTo (h : realValue a * realValue b ≠ 0) :
    RoundsTo (fmul a b) (realValue a * realValue b) := by
  rw [fmul_of_isFinite ha hb]
  refine deliverOrZero_roundsTo (Nat.mul_pos unitsPerOne_pos unitsPerOne_pos) h ?_
  rw [realValue_eq_quotient, realValue_eq_quotient, signFactor_xor, Nat.cast_mul, Nat.cast_mul,
    ← div_mul_div_comm, mul_mul_mul_comm]

theorem fdiv_roundsTo (h0 : realValue b ≠ 0) (h : realValue a ≠ 0) :
    RoundsTo (fdiv a b) (realValue a / realValue b) := by
  have hb0 : magnitude b ≠ 0 := mt (realValue_eq_zero_iff.mpr ∘ magnitude_eq_zero_iff.mp) h0
  have hunit : (unitsPerOne : ℚ) ≠ 0 := Nat.cast_ne_zero.mpr unitsPerOne_pos.ne'
  rw [fdiv_of_isFinite ha hb, if_neg hb0]
  refine deliverOrZero_roundsTo (Nat.pos_of_ne_zero hb0) (div_ne_zero h h0) ?_
  rw [realValue_eq_quotient, realValue_eq_quotient, mul_div_mul_comm, signFactor_div_signFactor,
    div_div_div_cancel_right₀ hunit]

end

theorem ofLong_roundsTo {v : Word} (h : v ≠ 0#64) : RoundsTo (ofLong v) (v.toInt : ℚ) := by
  have hv : v.toInt ≠ 0 := fun h0 => h (BitVec.eq_of_toInt_eq (h0.trans BitVec.toInt_zero.symm))
  refine deliverOrZero_roundsTo one_pos (Int.cast_ne_zero.mpr hv) ?_
  rw [Nat.cast_one, div_one, signFactor_mul_natAbs]

/-- Settles O30: each operation delivers its exact value by `deliver`. -/
theorem fpRoundsToNearestEven : Obligations.FpRoundsToNearestEven :=
  ⟨fun _ _ ha hb => ⟨fadd_roundsTo ha hb, fmul_roundsTo ha hb, fdiv_roundsTo ha hb⟩,
    fun _ h => ofLong_roundsTo h⟩

end Sys2Proof.Machine
end

section
/-!
What the call of `step()` answers: a refusal exactly after the end of a run (O43), and a next state
from every state with the invariant in which it is accepted (O56). Only the call itself refuses. Of the
model's stops (log 2) one needs a hook that runs while none is due, which the loop never does, the other
an entry past IF without an instruction, which `EntriesDecoded` excludes.
-/

namespace Sys2Proof.Machine

/-! ## Accepted and rejected calls (60_exceptions.md R364, 70_reset_and_hazards.md R396) -/

theorem RunState.accepts_iff {r : RunState} : r.accepts = true ↔ r = .ready ∨ r = .running := by
  cases r <;> decide

theorem RunState.accepts_eq_false_iff {r : RunState} :
    r.accepts = false ↔ r = .halted ∨ r = .faulted := by
  cases r <;> decide

theorem step_accepted {s : State} (h : s.runState.accepts = true) : step s = cycleOnce s := if_pos h

theorem step_rejected {s : State} (h : s.runState.accepts = false) :
    step s = .refused .alreadyHalted := by
  simp [step, stepCall, h]

/-! ## No refusal within a cycle -/

theorem exec_ne_refused (i : Instr) (s : State) (r : Refusal) : exec i s ≠ .refused r := by
  obtain ⟨b, hb⟩ := exec_row i
  rw [hb.runs]
  cases hdue : s.due with
  | none => rw [runInstr_none hdue]; nofun
  | some p => rw [runInstr_due hdue]; nofun

theorem runHook_of_entryInstr {st : Stage} {e : Entry} {i : Instr} (h : entryInstr st e = some i)
    (s : State) : runHook st e s = exec i s := by
  simp [runHook, h]

theorem runHook_ne_refused (st : Stage) (e : Entry) (s : State) (r : Refusal) :
    runHook st e s ≠ .refused r := by
  cases hi : entryInstr st e with
  | some i => exact runHook_of_entryInstr hi s ▸ exec_ne_refused i s r
  | none => cases st <;> simp [runHook, hi]

theorem runStage_ne_refused (st : Stage) (s : State) (r : Refusal) : runStage st s ≠ .refused r := by
  unfold runStage
  cases enter st s with
  | pass t => nofun
  | fetchFault t => nofun
  | hook t e => exact runHook_ne_refused st e t r

theorem loopFrom_ne_refused (stages : List Stage) (s : State) (r : Refusal) :
    loopFrom stages s ≠ .refused r := by
  induction stages generalizing s with
  | nil => nofun
  | cons st rest ih =>
    unfold loopFrom
    cases hturn : runStage st s with
    | next u =>
      cases hg : goesOn st u with
      | true => simpa [hg] using ih u
      | false => simp [hg]
    | fault f => nofun
    | refused q => exact absurd hturn (runStage_ne_refused st s q)

/-- Settles O43: the call is rejected where the run state does not accept it, and a cycle refuses
nothing. -/
theorem stepRejectedExactlyAfterTheEnd : Obligations.StepRejectedExactlyAfterTheEnd := by
  intro s
  rw [← RunState.accepts_eq_false_iff]
  refine ⟨fun h => ?_, step_rejected⟩
  by_contra ha
  rw [step_accepted (Bool.eq_true_of_not_eq_false ha)] at h
  exact loopFrom_ne_refused _ _ _ h

/-! ## No stop within a cycle (70_reset_and_hazards.md R399) -/

theorem entryInstr_of_ne_IF {st : Stage} (h : st ≠ .IF) (e : Entry) : entryInstr st e = e.ins := by
  cases st
  case IF => exact absurd rfl h
  all_goals rfl

/-- An entry has an instruction to run in its stage, or it stands in IF and its word is reserved. -/
theorem EntriesDecoded.entryInstr_cases {s : State} {st : Stage} {e : Entry} (hi : EntriesDecoded s)
    (he : s.slot st = some e) :
    (∃ i, entryInstr st e = some i) ∨ (st = .IF ∧ decode e.word = .reserved) := by
  by_cases hst : st = .IF
  · subst hst
    cases hw : decode e.word with
    | ins i => exact .inl ⟨i, by simp [entryInstr, hw, Decoded.instr?]⟩
    | reserved => exact .inr ⟨rfl, rfl⟩
  · obtain ⟨i, hins, _⟩ := hi st e he (.inl hst)
    exact .inl ⟨i, (entryInstr_of_ne_IF hst e).trans hins⟩

theorem runStage_completes {st : Stage} {s : State} (hr : Reached st s) (hi : EntriesDecoded s) :
    ∃ u, runStage st s = .next u := by
  unfold runStage
  cases henter : enter st s with
  | pass t => exact ⟨t, rfl⟩
  | fetchFault t => exact ⟨t, rfl⟩
  | hook t e =>
    obtain ⟨he, _, _, hdue⟩ := due_of_enter henter hr.2
    obtain ⟨i, hins⟩ | ⟨rfl, hw⟩ := (hi.enter henter).entryInstr_cases he
    · obtain ⟨b, hb⟩ := exec_row i
      exact ⟨_, (runHook_of_entryInstr hins t).trans (hb.exec_due hdue)⟩
    · exact ⟨_, runHook_reserved hw⟩

/-- Where a turn goes on, the loop reaches the stage before. -/
theorem Reached.turn {st p : Stage} {s u : State} (hr : Reached st s) (hp : st.before = some p)
    (h : runStage st s = .next u) (hg : goesOn st u = true) : Reached p u := by
  obtain ⟨hrun, hset, hold⟩ := settled_after hr h hg
  refine ⟨hrun, fun o ho => ?_⟩
  by_cases hos : o = st
  · exact hos ▸ hset
  · refine hold o ?_
    rw [Stage.before_eq_some] at hp
    rw [Stage.mem_older] at ho ⊢
    rw [Stage.depth_inj] at hos
    omega

/-- The loop over consecutive stages, of which it has reached the first, answers a next state. -/
theorem loopFrom_completes {stages : List Stage} {s : State}
    (horder : stages.IsChain (·.before = some ·)) (hr : ∀ st ∈ stages.head?, Reached st s)
    (hi : EntriesDecoded s) : ∃ t, loopFrom stages s = .next t := by
  induction stages generalizing s with
  | nil => exact ⟨s, rfl⟩
  | cons st rest ih =>
    obtain ⟨hnext, hrest⟩ := List.isChain_cons.mp horder
    have hst : Reached st s := hr st rfl
    obtain ⟨u, hu⟩ := runStage_completes hst hi
    rw [loopFrom, hu]
    cases hg : goesOn st u with
    | false => exact ⟨u, by simp [hg]⟩
    | true => simpa [hg] using ih hrest (fun p hp => hst.turn (hnext p hp) hu hg) (hi.turn hst hu)

theorem loopOrder_isChain : loopOrder.IsChain (·.before = some ·) := by decide

theorem reached_beginCycle (s : State) : Reached .WB s.beginCycle := ⟨rfl, nofun⟩

/-- Settles O56: every entry past IF carries its instruction, so each turn of the cycle completes. -/
theorem acceptedStepsComplete : Obligations.AcceptedStepsComplete := by
  intro s hi hrun
  rw [step_accepted (RunState.accepts_iff.mpr hrun)]
  refine loopFrom_completes loopOrder_isChain ?_ fun st e he => hi.decoded st e (beginCycle_slot he)
  rintro _ ⟨⟩
  exact reached_beginCycle s

end Sys2Proof.Machine
end

section
/-!
A step runs the instruction of the word in IF (O4), a later stage the one its entry carries (O5), and
the first step after reset() and a load the one at address 0 (O60).
-/

namespace Sys2Proof.Machine

/-! ## The turn of a stage is `exec` (70_reset_and_hazards.md R397, R403) -/

theorem entryInstr_IF_of_decode {e : Entry} {i : Instr} (h : decode e.word = .ins i) :
    entryInstr .IF e = some i := by
  simp [entryInstr, h, Decoded.instr?]

/-- The hook of an entry that stalled in its stage runs again. -/
theorem runStage_waiting {s : State} {st : Stage} {e : Entry} {i : Instr} (he : s.slot st = some e)
    (hd : e.done = false) (hi : entryInstr st e = some i) : runStage st s = exec i s := by
  have henter : enter st s = .hook s e := by simp [enter, he, hd]
  rw [runStage, henter]
  exact runHook_of_entryInstr hi s

/-- The loop over one stage is its turn. -/
theorem loopFrom_singleton (st : Stage) (s : State) : loopFrom [st] s = runStage st s := by
  cases h : runStage st s <;> simp [loopFrom, h]

/-- A step whose older stages are all done in `t` is the turn of IF in `t`. -/
theorem step_eq_turn_IF {s t : State} (ha : s.runState.accepts = true)
    (h : loopFrom [.WB, .MEM, .EX, .ID] s.beginCycle = .next t) (hr : t.runState = .running)
    (hdone : ∀ st ∈ [Stage.WB, .MEM, .EX, .ID], t.doneAt st) : step s = runStage .IF t :=
  calc step s = loopFrom ([Stage.WB, .MEM, .EX, .ID] ++ [Stage.IF]) s.beginCycle := step_accepted ha
    _ = loopFrom [.IF] t := loopFrom_append _ h fun st hst => goesOn_of_doneAt hr (hdone st hst)
    _ = runStage .IF t := loopFrom_singleton _ _

/-- Settles O4: the step ends with the turn of IF, which runs the decoded word of the entry fetched
or waiting there. -/
theorem stepRunsTheDecodedInstruction : Obligations.StepRunsTheDecodedInstruction := by
  intro s t i hacc hloop hrun hWB hMEM hEX hID
  have hstep : step s = runStage .IF t :=
    step_eq_turn_IF hacc hloop hrun (by simp [hWB, hMEM, hEX, hID])
  rw [hstep]
  exact ⟨fun h0 hf ha hr hw => (runStage_fetched h0 hf ha hr).trans
      (runHook_of_entryInstr (entryInstr_IF_of_decode hw) _),
    fun e he hd hw => runStage_waiting he hd (entryInstr_IF_of_decode hw)⟩

/-- Settles O5: an entry past IF runs the instruction it carries, moved in or waiting. -/
theorem laterStagesRunTheCarriedInstruction : Obligations.LaterStagesRunTheCarriedInstruction := by
  intro s st p e i hp hi
  have hst : st ≠ .IF := by rintro rfl; cases hp
  exact ⟨fun h0 he hd => (runStage_moved hp h0 he hd hi).2,
    fun he hd => runStage_waiting he hd ((entryInstr_of_ne_IF hst e).trans hi)⟩

/-! ## The first step (70_reset_and_hazards.md R393) -/

/-- Behind empty slots the older stages are idle. -/
theorem loopFrom_older_empty {s : State} (hr : s.runState = .running)
    (h : ∀ st, s.slot st = none) : loopFrom [.WB, .MEM, .EX, .ID] s = .next s :=
  loopFrom_idle hr fun st hst => ⟨h st, fun p _ => h p, by rintro rfl; simp at hst⟩

/-- Settles O60: all slots are empty, so the step is the turn of IF, which fetches at address 0. -/
theorem firstStepAfterReset : Obligations.FirstStepAfterReset := by
  intro s t im i hload hsize hw
  obtain ⟨_, rfl⟩ := State.loadProgram_ok hload
  set t : State := { s.resetOp with imem := Memory.ofImage im.imem, dmem := Memory.ofImage im.dmem }
  have hempty : ∀ st, t.beginCycle.slot st = none := fun st =>
    beginCycle_slot_none (s.slot_resetOp st)
  have hdone : ∀ st, t.beginCycle.doneAt st := fun st e he => by rw [hempty] at he; cases he
  exact (stepRunsTheDecodedInstruction t t.beginCycle i rfl (loopFrom_older_empty rfl hempty) rfl
    (hdone _) (hdone _) (hdone _) (hdone _)).1 (hempty _) rfl rfl hsize hw

end Sys2Proof.Machine
end

section
/-!
A step that counts no stall moves every entry on (O46). The turns run oldest first, and each leaves the
stage before it empty, or holding an entry that had stalled there; so the next turn has room, and
the last one, IF, completes a fetchHook if fetching is enabled.
-/

namespace Sys2Proof.Machine

/-! ## An induction from stage to stage (70_reset_and_hazards.md R397) -/

theorem Stage.before_eq_none {st : Stage} : st.before = none ↔ st = .IF := by
  cases st <;> decide

theorem Stage.younger_of_before {st p : Stage} (h : st.before = some p) :
    st.younger = p :: p.younger := by
  cases st <;> cases h <;> rfl

section
variable {P : Stage → State → Prop} {Q : State → Prop}
  (hgo : ∀ st p t u, st.before = some p → Reached st t → P st t → runStage st t = .next u →
    goesOn st u = true → P p u)
  (hend : ∀ st t u, Reached st t → P st t → runStage st t = .next u →
    st = .IF ∨ goesOn st u = false → Q u)
include hgo hend

theorem loopFrom_induct_stage (st : Stage) {t u : State} (hr : Reached st t) (hP : P st t)
    (h : loopFrom (st :: st.younger) t = .next u) : Q u := by
  obtain ⟨v, hv, ⟨hg, h⟩ | ⟨hg, rfl⟩⟩ := loop_turn h
  · cases hp : st.before with
    | none =>
      obtain rfl := Stage.before_eq_none.mp hp
      cases h
      exact hend .IF t _ hr hP hv (.inl rfl)
    | some p =>
      rw [Stage.younger_of_before hp] at h
      exact loopFrom_induct_stage p (hr.turn hp hv hg) (hgo st p t v hp hr hP hv hg) h
  · exact hend st t _ hr hP hv (.inr hg)
termination_by st.depth
decreasing_by
  rw [Stage.before_eq_some] at hp
  omega

/-- Unlike in `step_induct_ordered` the property may speak of the stage the loop has reached. -/
theorem step_induct_stage {s s' : State} (h : step s = .next s')
    (hbegin : s.runState.accepts = true → P .WB s.beginCycle) : Q s' := by
  cases ha : s.runState.accepts with
  | true =>
    rw [step_accepted ha] at h
    exact loopFrom_induct_stage hgo hend .WB (reached_beginCycle s) (hbegin ha) h
  | false => rw [step_rejected ha] at h; cases h

end

/-! ## What a turn leaves alone and completes -/

/-- Bringing an entry into a stage touches that stage and the one before it. -/
theorem EntryOrigin.slot_elsewhere {st o : Stage} {s t : State} {e : Entry}
    (h : EntryOrigin st s t e) (ho : o ≠ st) (hb : st.before ≠ some o) : t.slot o = s.slot o := by
  cases h with
  | fetched _ _ _ _ hs => simp [hs, ho]
  | waiting _ _ hs => rw [hs]
  | moved p _ hp _ _ _ _ hs =>
    rw [hs, if_neg ho, if_neg]
    rintro rfl
    exact hb hp

/-- So does a turn. -/
theorem turn_slot_elsewhere {st o : Stage} {s u : State} (hr : Reached st s)
    (h : runStage st s = .next u) (ho : o ≠ st) (hb : st.before ≠ some o) :
    u.slot o = s.slot o := by
  rcases runStage_cases h hr.2 with ⟨rfl, _⟩ | ⟨_, _, _, _, rfl⟩ | ⟨t, e, _, ht, _, rfl⟩ |
      ⟨t, e, i, b, ht, _, _, _, _, _, rfl⟩
  · rfl
  · rfl
  · exact (entry_origin ht).slot_elsewhere ho hb
  · exact (hookAt_slot_other i b st o e t ho).trans ((entry_origin ht).slot_elsewhere ho hb)

/-- The stalls counted since reset, of whatever kind (10_state.md R49). -/
def Stalls.total (c : Stalls) : Nat := c.raw + c.waw + c.structural

theorem State.total_stall (s : State) (k : Hazard) :
    (s.stall k).stalls.total = s.stalls.total + 1 := by
  cases k <;> simp only [State.stall, Stalls.total] <;> omega

theorem State.stall_stalls_ne (s : State) (k : Hazard) : (s.stall k).stalls ≠ s.stalls := by
  intro h
  have := s.total_stall k
  rw [h] at this
  omega

/-- The entry stays in its slot, with the time of its fetch and, past IF, its instruction. -/
theorem hookAt_slot_kept {st : Stage} {s : State} {e : Entry} (i : Instr) (b : Behaviour)
    (he : s.slot st = some e) : ∃ k, (hookAt i b st e s).slot st = some k ∧
      k.entryCycle = e.entryCycle ∧ (st ≠ .IF → k.ins = e.ins) := by
  rcases hookAt_slot i b he with ⟨h, _, _⟩ | ⟨k, h, _, _, _, _, hc, hi, _⟩ |
      ⟨k, h, _, _, _, _, _, _, hc, hi⟩
  · exact ⟨e, h, rfl, fun _ => rfl⟩
  · exact ⟨k, h, hc, fun hst => hi.trans (if_neg hst)⟩
  · exact ⟨k, h, hc, fun _ => hi⟩

/-- A hook that neither stalls nor ends the run leaves its entry done. -/
theorem hookAt_doneAt (i : Instr) (b : Behaviour) (st : Stage) (e : Entry) {s : State}
    (hs : (hookAt i b st e s).stalls = s.stalls) (hr : (hookAt i b st e s).runState = .running) :
    (hookAt i b st e s).doneAt st := by
  cases st
  case IF =>
    rcases fetchHook_cases i b e s with ⟨_, h⟩ | ⟨_, _, _, _, h⟩ | ⟨_, _, _, h⟩ <;>
      simp only [hookAt, h] at hs ⊢
    · exact absurd hs (s.stall_stalls_ne _)
    · rintro _ ⟨⟩; rfl
    · rintro _ ⟨⟩; rfl
  case ID =>
    rcases decodeHook_cases b e s with ⟨_, h⟩ | ⟨_, _, _, h⟩ | ⟨_, _, _, h⟩ <;>
      simp only [hookAt, h] at hs ⊢
    · exact absurd hs (s.stall_stalls_ne _)
    · exact absurd hs (s.stall_stalls_ne _)
    · rintro _ ⟨⟩; rfl
  case EX =>
    rcases executeHook_cases b e s with ⟨_, _, _, h⟩ | ⟨_, _, h⟩ <;>
      simp only [hookAt, h] at hr ⊢
    · rintro _ ⟨⟩; rfl
    · cases hr
  case MEM =>
    rcases memoryHook_cases b e s with ⟨_, _, h⟩ | ⟨_, _, _, h⟩ | h | ⟨_, _, h⟩ <;>
      simp only [hookAt, h] at hs hr ⊢
    · rintro _ ⟨⟩; rfl
    · rintro _ ⟨⟩; rfl
    · exact absurd hs (s.stall_stalls_ne _)
    · cases hr
  case WB =>
    rcases writebackHook_cases b e s with ⟨_, h⟩ | ⟨_, h⟩ <;> simp only [hookAt, h] at hr ⊢
    · cases hr
    · rintro _ ⟨⟩; rfl

/-- The loop goes on after a turn that neither stalls nor ends the run (R399). -/
theorem turn_goesOn {st : Stage} {s u : State} (hr : Reached st s) (h : runStage st s = .next u)
    (hs : u.stalls = s.stalls) (hrun : u.runState = .running) : goesOn st u = true := by
  refine goesOn_of_doneAt hrun ?_
  rcases runStage_cases h hr.2 with ⟨rfl, hset, _, _⟩ | ⟨_, _, _, _, rfl⟩ | ⟨_, _, _, _, _, rfl⟩ |
      ⟨t, e, i, b, ht, _, _, _, _, _, rfl⟩
  · exact hset
  · cases hrun
  · cases hrun
  · exact hookAt_doneAt i b st e (hs.trans (OnlySlotsDiffer.of_enter ht).stalls.symm) hrun

/-! ## The room that moves through the pipeline -/

/-- Every done entry of `s` in the stage before a stage of depth `n` or more stands in that stage in
`t`, with its instruction. -/
def MovedOn (s : State) (n : Nat) (t : State) : Prop :=
  ∀ st p e, st.before = some p → n ≤ st.depth → s.slot p = some e → e.done = true →
    ∃ k, t.slot st = some k ∧ k.ins = e.ins

/-- What a step from `s` has done when its loop reaches `st` and no turn has counted a stall: the entries
of the older stages have moved on, the younger stages are as they were, and `st` has room. -/
structure Flowing (s : State) (st : Stage) (t : State) : Prop where
  unstalled : Unstalled s t
  control : SameControl s.beginCycle t
  behind : EmptyBehindStall t
  room : ∀ e, t.slot st = some e → e.done = false ∧ s.slot st = some e
  younger : ∀ y ∈ st.younger, t.slot y = s.slot y
  older : MovedOn s (st.depth + 1) t

theorem Flowing.beginCycle {s : State} (hb : EmptyBehindStall s) : Flowing s .WB s.beginCycle where
  unstalled := ⟨rfl, rfl, rfl, .inl rfl⟩
  control := ⟨rfl, rfl, rfl, rfl, rfl, rfl, rfl⟩
  behind o p e hp he hd := beginCycle_slot_none (hb o p e hp (beginCycle_slot he) hd)
  room e he := by cases he
  younger y hy := by
    cases y
    case WB => simp [Stage.younger] at hy
    all_goals rfl
  older o p e hp hn := by cases o <;> simp [Stage.depth] at hn

section
variable {s t u : State} {st p : Stage} (hf : Flowing s st t) (hr : Reached st t)
  (h : runStage st t = .next u)
include hf

/-- The stage before is as it was. -/
theorem Flowing.slot_before (hp : st.before = some p) : t.slot p = s.slot p :=
  hf.younger p (by rw [Stage.younger_of_before hp]; exact List.mem_cons_self)

/-- A done entry in the stage before finds the stage empty. -/
theorem Flowing.slot_eq_none (hp : st.before = some p) {e : Entry} (he : t.slot p = some e) :
    t.slot st = none := by
  cases hk : t.slot st with
  | none => rfl
  | some k =>
    have hnone := hf.behind st p k hp hk (hf.room k hk).1
    rw [he] at hnone
    cases hnone

include hr h

/-- After the turn what stood before the stage has moved into it, whether its hook completed or not. -/
theorem Flowing.moves : MovedOn s st.depth u := by
  intro o p e hp hn he hd
  by_cases ho : o = st
  · subst ho
    have hep : t.slot p = some e := (hf.slot_before hp).trans he
    have h0 : t.slot o = none := hf.slot_eq_none hp hep
    have hIF : o ≠ .IF := by rintro rfl; cases hp
    rcases runStage_cases h hr.2 with ⟨_, _, hm, _⟩ | ⟨_, _, hst, _, _⟩ | ⟨_, _, hst, _, _, _⟩ |
        ⟨v, k, i, b, hv, _, _, hk, _, _, rfl⟩
    · have hu := hm p e hp h0 hep
      rw [hd] at hu
      cases hu
    · exact absurd hst hIF
    · exact absurd hst hIF
    · have hins : k.ins = e.ins := by
        cases entry_origin hv with
        | fetched hst _ _ _ _ => exact absurd hst hIF
        | waiting hw _ _ => rw [h0] at hw; cases hw
        | moved q m hq _ hm _ hk' _ =>
          rw [hp] at hq
          cases hq
          rw [hep] at hm
          cases hm
          rw [hk']
      obtain ⟨k', hk', _, hi⟩ := hookAt_slot_kept i b hk
      exact ⟨k', hk', (hi hIF).trans hins⟩
  · have hlt : st.depth + 1 ≤ o.depth := by rw [Stage.depth_inj] at ho; omega
    obtain ⟨k, hk, hi⟩ := hf.older o p e hp hlt he hd
    refine ⟨k, (turn_slot_elsewhere hr h ho fun hb => ?_).trans hk, hi⟩
    rw [Stage.before_eq_some] at hb
    omega

/-- After the turn the stage before has room. -/
theorem Flowing.leaves_room (hp : st.before = some p) :
    ∀ e, u.slot p = some e → e.done = false ∧ s.slot p = some e := by
  intro e he
  have hIF : st ≠ .IF := by rintro rfl; cases hp
  rcases runStage_cases h hr.2 with ⟨rfl, _, hm, _⟩ | ⟨_, _, hst, _, _⟩ | ⟨_, _, hst, _, _, _⟩ |
      ⟨v, k, i, b, hv, _, _, _, _, _, rfl⟩
  · exact ⟨hm p e hp (hf.slot_eq_none hp he) he, (hf.slot_before hp).symm.trans he⟩
  · exact absurd hst hIF
  · exact absurd hst hIF
  · rw [hookAt_slot_other i b st p k v (Stage.before_ne hp)] at he
    have hnone : v.slot p = none := by
      cases entry_origin hv with
      | fetched hst _ _ _ _ => exact absurd hst hIF
      | waiting hw hd hs => exact hs ▸ hf.behind st p k hp hw hd
      | moved q _ hq _ _ _ _ hs =>
        rw [hp] at hq
        cases hq
        rw [hs, if_neg (Stage.before_ne hp), if_pos rfl]
    rw [hnone] at he
    cases he

theorem Flowing.turn (hp : st.before = some p) (hg : goesOn st u = true) : Flowing s p u where
  unstalled := by
    rcases hf.unstalled.turn hr h with ⟨_, hn⟩ | ⟨_, hn⟩
    · exact hn (by rintro rfl; cases hp)
    · rw [hg] at hn; cases hn
  control := hf.control.trans (.of_turn hr h)
  behind := hf.behind.turn hr h
  room := hf.leaves_room hr h hp
  younger y hy := by
    have hlt := Stage.mem_younger.mp hy
    have hdepth := Stage.before_eq_some.mp hp
    refine (turn_slot_elsewhere hr h ?_ ?_).trans (hf.younger y (Stage.mem_younger.mpr (by omega)))
    · rw [ne_eq, Stage.depth_inj]; omega
    · rw [ne_eq, Stage.before_eq_some]; omega
  older := by
    have hdepth := Stage.before_eq_some.mp hp
    exact hdepth ▸ hf.moves hr h

end

theorem fetchedOne_iff {s t : State} : fetchedOne s t = true ↔
    ∃ e, t.slot .IF = some e ∧ e.done = true ∧ s.slot .IF ≠ some e := by
  unfold fetchedOne
  cases t.slot .IF <;> simp

/-- With fetching enabled a turn of IF that neither stalls nor ends the run completes a fetchHook. The
entry is new in IF: it waited there undone, or the cycle of its fetch is the present one. -/
theorem Flowing.fetches {s t u : State} (hf : Flowing s .IF t) (hr : Reached .IF t)
    (h : runStage .IF t = .next u) (hs : u.stalls = s.stalls) (hrun : u.runState = .running)
    (hfe : s.fetchEnable = true) (hold : FetchedBefore (s.cycle + 1) s) :
    fetchedOne s u = true := by
  have hdone := (goesOn_elim (turn_goesOn hr h (hs.trans hf.unstalled.stalls.symm) hrun)).2
  rw [fetchedOne_iff]
  rcases runStage_cases h hr.2 with ⟨rfl, _, _, hidle⟩ | ⟨_, _, _, _, rfl⟩ | ⟨_, _, _, _, _, rfl⟩ |
      ⟨v, e, i, b, hv, _, _, he, _, _, rfl⟩
  · cases hk : u.slot .IF with
    | none =>
      have hstop := hf.unstalled.fetchEnable.symm.trans (hidle rfl hk)
      rw [hfe] at hstop
      cases hstop
    | some k =>
      have hk' := hdone k hk
      rw [(hf.room k hk).1] at hk'
      cases hk'
  · cases hrun
  · cases hrun
  · obtain ⟨k, hk, hc, _⟩ := hookAt_slot_kept i b he
    refine ⟨k, hk, hdone k hk, fun hsame => ?_⟩
    cases entry_origin hv with
    | fetched _ _ _ hnew _ =>
      have hlt := hold .IF k hsame
      have hcycle : t.cycle = s.cycle + 1 := hf.control.cycle
      have hnow : e.entryCycle = t.cycle := by rw [hnew]; rfl
      omega
    | waiting hw hd _ =>
      have hke : some k = some e := hsame.symm.trans (hf.room e hw).2
      have hk' := hdone k hk
      rw [Option.some.inj hke, hd] at hk'
      cases hk'
    | moved _ _ hp _ _ _ _ _ => cases hp

/-! ## How a step ends -/

/-- The loop of a step from `s` that ends in `u`, by what its last turn did. -/
inductive StepEnd (s u : State) : Prop
  /-- a fault -/
  | faulted (h : u.runState = .faulted)
  /-- the writebackHook of a HALT -/
  | halted (hr : u.runState = .halted) (hs : u.stalls = s.stalls) (e : Entry)
      (he : s.slot .MEM = some e) (hh : e.isHalt = true)
  /-- the stall of the entry in `st`, up to which the entries have moved on -/
  | stalled (h : StalledOnce s u) (st : Stage) (e : Entry) (he : u.slot st = some e)
      (hh : st ≠ .IF → e.isHalt = false) (hm : MovedOn s st.depth u)
      (hy : ∀ y, y.depth + 1 < st.depth → u.slot y = s.slot y)
  /-- a turn of IF that completed -/
  | flowed (hr : u.runState = .running) (hs : u.stalls = s.stalls) (hd : ∀ st, u.settled st)
      (hm : MovedOn s 0 u) (hf : s.fetchEnable = true → fetchedOne s u = true)
      (he : u.fetchEnable = s.fetchEnable ∨ ∃ e, u.slot .IF = some e ∧ e.isHalt = true)

/-- HALT reads no register, claims none and makes no access: none of its hooks stalls (R289). -/
theorem RowOf.halt_stalls {b : Behaviour} (hb : RowOf .halt b) (st : Stage) (e : Entry)
    (s : State) : (hookAt .halt b st e s).stalls = s.stalls := by
  cases st
  case IF => rw [hookAt, hb.fetchHook_completes (vs := []) rfl]
  case ID => rw [hookAt, hb.decodeHook_read (vs := []) rfl]; rfl
  case EX => rcases executeHook_cases b e s with ⟨_, _, _, h⟩ | ⟨_, _, h⟩ <;> simp [hookAt, h]
  case MEM => rw [hookAt, hb.memoryHook_idle rfl rfl, State.completeAt_stalls]
  case WB => rcases writebackHook_cases b e s with ⟨_, h⟩ | ⟨_, h⟩ <;> simp [hookAt, h]

/-- The entry at which a turn stalls is no HALT. -/
theorem turn_stalled {st : Stage} {s u : State} (hr : Reached st s) (h : runStage st s = .next u)
    (hs : u.stalls ≠ s.stalls) :
    ∃ e, u.slot st = some e ∧ (st ≠ .IF → e.isHalt = false) := by
  rcases runStage_cases h hr.2 with ⟨rfl, _⟩ | ⟨_, _, _, _, rfl⟩ | ⟨t, _, _, ht, _, rfl⟩ |
      ⟨t, e, i, b, ht, hi, hb, he, _, _, rfl⟩
  · exact absurd rfl hs
  · exact absurd rfl hs
  · exact absurd (OnlySlotsDiffer.of_enter ht).stalls hs
  · rw [← (OnlySlotsDiffer.of_enter ht).stalls] at hs
    have hne : i ≠ .halt := by
      rintro rfl
      exact hs (hb.halt_stalls st e t)
    obtain ⟨k, hk, _, hki⟩ := hookAt_slot_kept i b he
    refine ⟨k, hk, fun hst => ?_⟩
    rw [Entry.isHalt, hki hst, ← entryInstr_of_ne_IF hst e, hi]
    simpa using hne

/-- A turn leaves the fetch flag, or the fetchHook of a HALT has completed (10_state.md R47). -/
theorem turn_fetchEnable {st : Stage} {s u : State} (hr : Reached st s)
    (h : runStage st s = .next u) :
    u.fetchEnable = s.fetchEnable ∨ ∃ e, u.slot .IF = some e ∧ e.isHalt = true := by
  rcases runStage_cases h hr.2 with ⟨rfl, _⟩ | ⟨_, _, _, _, rfl⟩ | ⟨t, _, _, ht, _, rfl⟩ |
      ⟨t, e, i, b, ht, _, hb, _, _, _, rfl⟩
  · exact .inl rfl
  · exact .inl rfl
  · exact .inl (OnlySlotsDiffer.of_enter ht).fetchEnable
  · by_cases hhalt : st = .IF ∧ i = .halt
    · obtain ⟨rfl, rfl⟩ := hhalt
      rw [hookAt, hb.fetchHook_completes (vs := []) rfl]
      exact .inr ⟨_, rfl, rfl⟩
    · rw [hb.hookAt_fetchEnable, if_neg hhalt]
      exact .inl (OnlySlotsDiffer.of_enter ht).fetchEnable

/-- A turn that halts is that of WB, of a HALT that stood in MEM. -/
theorem Flowing.halts {s t u : State} {st : Stage} (hf : Flowing s st t) (hr : Reached st t)
    (h : runStage st t = .next u) (hWB : s.doneAt .WB) (hrun : u.runState = .halted) :
    ∃ e, s.slot .MEM = some e ∧ e.isHalt = true := by
  rcases runStage_cases h hr.2 with ⟨rfl, _⟩ | ⟨_, _, _, _, rfl⟩ | ⟨_, _, _, _, _, rfl⟩ |
      ⟨v, e, i, b, hv, hi, hb, he, _, _, rfl⟩
  · rw [hr.1] at hrun; cases hrun
  · cases hrun
  · cases hrun
  · have hvrun : v.runState = .running := (OnlySlotsDiffer.of_enter hv).runState.trans hr.1
    rcases hookAt_slot i b he with ⟨_, hru, _⟩ | ⟨_, _, _, hru, _, _, _, _, _⟩ |
        ⟨_, _, hst, hhalts, _, _, _, _, _, _⟩
    · rcases hru with ⟨hru, _⟩ | hru <;> simp [hrun, hvrun] at hru
    · simp [hrun, hvrun] at hru
    · subst hst
      obtain rfl : i = .halt := of_decide_eq_true (hb.halts ▸ hhalts)
      cases entry_origin hv with
      | fetched hst _ _ _ _ => cases hst
      | waiting hw hd _ =>
        have hd' := hWB e (hf.room e hw).2
        rw [hd] at hd'
        cases hd'
      | moved p k hp _ hk _ hke _ =>
        refine ⟨k, ?_, Entry.isHalt_iff.mpr ?_⟩
        · cases hp
          exact (hf.slot_before rfl).symm.trans hk
        · have hins : entryInstr .WB e = some .halt := hi
          rw [hke] at hins
          exact hins

theorem Flowing.stepEnd {s t u : State} {st : Stage} (hf : Flowing s st t) (hr : Reached st t)
    (h : runStage st t = .next u) (hlast : st = .IF ∨ goesOn st u = false) (hWB : s.doneAt .WB)
    (hold : FetchedBefore (s.cycle + 1) s) : StepEnd s u := by
  rcases hf.unstalled.turn hr h with ⟨hs, _⟩ | ⟨hstalled, _⟩
  · cases hrun : u.runState with
    | ready => exact absurd hrun (turn_not_ready hr h)
    | faulted => exact .faulted hrun
    | halted =>
      obtain ⟨e, he, hh⟩ := hf.halts hr h hWB hrun
      exact .halted hrun hs e he hh
    | running =>
      have hg := turn_goesOn hr h (hs.trans hf.unstalled.stalls.symm) hrun
      obtain rfl : st = .IF := hlast.resolve_right (by simp [hg])
      obtain ⟨_, hIF, holder⟩ := settled_after hr h hg
      refine .flowed hrun hs (fun o => ?_) (hf.moves hr h)
        (fun hfe => hf.fetches hr h hs hrun hfe hold)
        ((turn_fetchEnable hr h).imp_left (·.trans hf.unstalled.fetchEnable))
      cases o
      case IF => exact hIF
      all_goals exact holder _ (by decide)
  · obtain ⟨k, hk⟩ := hstalled.counted
    have hne : u.stalls ≠ t.stalls := by
      rw [hk, hf.unstalled.stalls]
      exact s.stall_stalls_ne k
    obtain ⟨e, he, hh⟩ := turn_stalled hr h hne
    refine .stalled hstalled st e he hh (hf.moves hr h) fun y hy => ?_
    refine (turn_slot_elsewhere hr h ?_ ?_).trans (hf.younger y (Stage.mem_younger.mpr (by omega)))
    · rw [ne_eq, Stage.depth_inj]; omega
    · rw [ne_eq, Stage.before_eq_some]; omega

theorem accepts_of_step {s t : State} (h : step s = .next t) : s.runState.accepts = true := by
  by_contra ha
  rw [step_rejected (Bool.eq_false_of_not_eq_true ha)] at h
  cases h

/-- Every step from a state in program order whose stalls stand where they may ends in one of these
ways. -/
theorem stepEnd {s t : State} (hreg : SlotsRegular s) (hord : InProgramOrder s)
    (h : step s = .next t) : StepEnd s t := by
  have hWB := hreg.writebackDone (accepts_of_step h)
  have hold := (inProgramOrder_iff.mp hord).2
  exact step_induct_stage (P := Flowing s) (fun _ _ _ _ hp hr hf hu hg => hf.turn hr hu hp hg)
    (fun _ _ _ hr hf hu hlast => hf.stepEnd hr hu hlast hWB hold) h
    fun _ => .beginCycle hreg.behindStall

/-- Settles O46: without a stall, a fault or a halt the last turn is that of IF, which fetches. -/
theorem stallOrFetch : Obligations.StallOrFetch := by
  intro s t hi h hfe hs hrun
  cases stepEnd hi.regular hi.ordered h with
  | faulted hr => rw [hrun] at hr; cases hr
  | halted hr _ _ _ _ => rw [hrun] at hr; cases hr
  | stalled hstalled _ _ _ _ _ _ =>
    obtain ⟨k, hk⟩ := hstalled.counted
    exact absurd (hk.symm.trans hs) (s.stall_stalls_ne k)
  | flowed _ _ _ _ hf _ => exact hf hfe

end Sys2Proof.Machine
end

section
/-!
A run of `n` instructions that halts takes `n + 4` cycles and one per stall (O47). While fetching is
enabled every cycle completes a fetchHook or counts a stall; from the fetch of the HALT on, every cycle
moves it one stage further or counts a stall, and from IF it has four stages to go.
-/

namespace Sys2Proof.Machine

/-! ## The HALT in flight (45_control.md R289) -/

theorem Stage.exists_before {p : Stage} (h : p ≠ .WB) : ∃ st : Stage, st.before = some p := by
  cases p
  case WB => exact absurd rfl h
  case IF => exact ⟨.ID, rfl⟩
  case ID => exact ⟨.EX, rfl⟩
  case EX => exact ⟨.MEM, rfl⟩
  case MEM => exact ⟨.WB, rfl⟩

/-- A HALT that has entered WB has not completed its writebackHook (R362; log 10). -/
def RetiringHaltUndone (s : State) : Prop :=
  ∀ e, s.slot .WB = some e → e.isHalt = true → e.done = false

theorem RetiringHaltUndone.enter {st : Stage} {s t : State} {e : Entry}
    (hi : RetiringHaltUndone s) (h : enter st s = .hook t e) : RetiringHaltUndone t := by
  intro k hk hh
  have ho := entry_origin h
  by_cases hst : .WB = st
  · subst hst
    rw [ho.slot_here] at hk
    cases hk
    exact ho.undone
  · exact hi k (ho.slot_other_some hst hk) hh

theorem RetiringHaltUndone.hook {st : Stage} {s : State} {e : Entry} {i : Instr} {b : Behaviour}
    (hi : RetiringHaltUndone s) (he : s.slot st = some e) (hd : e.done = false)
    (hins : entryInstr st e = some i) (hb : RowOf i b) :
    RetiringHaltUndone (hookAt i b st e s) := by
  intro k hk hh
  by_cases hst : .WB = st
  · subst hst
    rcases hookAt_slot i b he with ⟨h, _, _⟩ | ⟨k', h, _, _, _, _, _, hki, hn⟩ |
        ⟨k', h, _, _, hkd, _, _, _, _, _⟩ <;> rw [hk] at h <;> cases h
    · exact hd
    · have hhalt : some i = some .halt :=
        hins.symm.trans (hki.symm.trans (Entry.isHalt_iff.mp hh))
      rw [hb.halts, Option.some.inj hhalt] at hn
      simp at hn
    · exact hkd.trans hd
  · exact hi k ((hookAt_slot_other i b st .WB e s hst).symm.trans hk) hh

theorem RetiringHaltUndone.of_step {s t : State} (h : step s = .next t) : RetiringHaltUndone t :=
  step_keeps h (fun _ e he => by cases he) fun _ _ _ hr hp hu =>
    turn_keeps hr hp hu (fun _ _ _ _ _ _ hw => hw) (fun _ _ ht => hp.enter ht)
      (fun _ _ _ _ _ hw he hd hins hb => hw.hook he hd hins hb)

/-! ## Counting (70_reset_and_hazards.md R421) -/

/-- What a run keeps that tells how its steps end. -/
structure Orderly (s : State) : Prop where
  regular : SlotsRegular s
  ordered : InProgramOrder s
  halt : HaltLast s

theorem Orderly.step {s t : State} (hi : Orderly s) (h : step s = .next t) : Orderly t :=
  ⟨hi.regular.step h, hi.ordered.step h, hi.halt.step h⟩

theorem Orderly.of_empty {s : State} (h : ∀ st, s.slot st = none) (hr : s.runState ≠ .halted) :
    Orderly s where
  regular := ⟨fun _ e he => by simp [h] at he, fun _ e he => by simp [h] at he,
    fun _ _ e _ he => by simp [h] at he⟩
  ordered := ⟨fun _ _ _ e _ he => by simp [h] at he, fun _ e he => by simp [h] at he⟩
  halt := ⟨fun _ e he => by simp [h] at he, fun _ e _ he => by simp [h] at he,
    fun hh => absurd hh hr⟩

/-- The cycle of a state that a run reaches after `n` completed fetchHooks, by how far the run is. -/
inductive RunCount (t : State) (n : Nat) : Prop
  /-- the HALT is not fetched yet -/
  | fetching (hf : t.fetchEnable = true) (hr : t.runState.accepts = true)
      (hc : t.cycle = n + t.stalls.total)
  /-- the HALT is on its way, in the stage `q` -/
  | draining (q : Stage) (e : Entry) (he : t.slot q = some e) (hh : e.isHalt = true)
      (hd : e.done = true) (hq : q ≠ .WB) (hr : t.runState.accepts = true)
      (hc : t.cycle = n + q.depth + t.stalls.total)
  /-- the HALT has written back -/
  | halted (hr : t.runState = .halted) (hc : t.cycle = n + 4 + t.stalls.total)
  /-- the run has ended in a fault -/
  | faulted (hr : t.runState = .faulted)

theorem StalledOnce.total {s t : State} (h : StalledOnce s t) :
    t.stalls.total = s.stalls.total + 1 := by
  obtain ⟨k, hk⟩ := h.counted
  rw [hk, s.total_stall]

/-- Before the HALT is fetched a step completes a fetchHook or counts a stall. -/
theorem RunCount.step_fetching {s t : State} {n : Nat} (hi : Orderly s) (h : step s = .next t)
    (hf : s.fetchEnable = true) (hc : s.cycle = n + s.stalls.total) :
    RunCount t (n + if fetchedOne s t then 1 else 0) := by
  have hcycle : t.cycle = s.cycle + 1 := (step_sameControl h).cycle
  cases stepEnd hi.regular hi.ordered h with
  | faulted hr => exact .faulted hr
  | halted _ _ e he hh =>
    have hstop := hi.halt.fetchStopped .MEM e he hh
    rw [hf] at hstop
    cases hstop
  | stalled hs _ _ _ _ _ _ =>
    have htotal := hs.total
    refine .fetching (hs.fetchEnable.trans hf) (by rw [hs.running]; rfl) ?_
    simp only [hs.noFetch, Bool.false_eq_true, if_false]
    omega
  | flowed hr hs hd _ hfetch hstop =>
    have hacc : t.runState.accepts = true := by rw [hr]; rfl
    rw [if_pos (hfetch hf)]
    rcases hstop with ht | ⟨e, he, hh⟩
    · exact .fetching (ht.trans hf) hacc (by rw [hs]; omega)
    · refine .draining .IF e he hh (hd .IF e he) (by simp) hacc ?_
      rw [hs]
      simp only [Stage.depth]
      omega

/-- Behind a HALT past IF no fetchHook completes. -/
theorem HaltLast.not_fetchedOne {s t : State} (hi : HaltLast t) {q : Stage} {e : Entry}
    (he : t.slot q = some e) (hh : e.isHalt = true) (hq : 0 < q.depth) :
    fetchedOne s t = false := by
  have hIF : t.slot .IF = none := hi.youngest q e .IF he hh (Stage.mem_younger.mpr hq)
  simp [fetchedOne, hIF]

/-- In a step that stalls a HALT stays where it is: had it moved, then behind the entry that stalled. -/
theorem halt_stays {s t : State} {q st : Stage} {e k : Entry} (hi : HaltLast t)
    (he : s.slot q = some e) (hh : e.isHalt = true) (hd : e.done = true) (hq : q ≠ .WB)
    (hk : t.slot st = some k) (hkh : st ≠ .IF → k.isHalt = false) (hm : MovedOn s st.depth t)
    (hy : ∀ y : Stage, y.depth + 1 < st.depth → t.slot y = s.slot y) : t.slot q = some e := by
  by_cases hlt : q.depth + 1 < st.depth
  · exact (hy q hlt).trans he
  · exfalso
    obtain ⟨o, ho⟩ := Stage.exists_before hq
    have hdepth := Stage.before_eq_some.mp ho
    obtain ⟨m, hmo, hins⟩ := hm o q e ho (by omega) he hd
    have hmh : m.isHalt = true := Entry.isHalt_iff.mpr (hins.trans (Entry.isHalt_iff.mp hh))
    by_cases hos : o = st
    · subst hos
      rw [hk] at hmo
      cases hmo
      rw [hkh (by rintro rfl; cases ho)] at hmh
      cases hmh
    · rw [Stage.depth_inj] at hos
      rw [hi.youngest o m st hmo hmh (Stage.mem_younger.mpr (by omega))] at hk
      cases hk

/-- A HALT in flight moves on, or the step counts a stall. -/
theorem RunCount.step_draining {s t : State} {n : Nat} {q : Stage} {e : Entry} (hi : Orderly s)
    (h : step s = .next t) (he : s.slot q = some e) (hh : e.isHalt = true) (hd : e.done = true)
    (hq : q ≠ .WB) (hc : s.cycle = n + q.depth + s.stalls.total) :
    RunCount t (n + if fetchedOne s t then 1 else 0) := by
  have hcycle : t.cycle = s.cycle + 1 := (step_sameControl h).cycle
  have ht : HaltLast t := hi.halt.step h
  cases stepEnd hi.regular hi.ordered h with
  | faulted hr => exact .faulted hr
  | halted hr hs k hk hkh =>
    have hMEM : q = .MEM := by
      by_contra hne
      have hyoung : Stage.MEM ∉ q.younger := fun hy => by
        rw [hi.halt.youngest q e .MEM he hh hy] at hk; cases hk
      have hold : q ∉ Stage.MEM.younger := fun hy => by
        rw [hi.halt.youngest .MEM k q hk hkh hy] at he; cases he
      rw [Stage.mem_younger] at hyoung hold
      rw [Stage.depth_inj] at hne
      omega
    subst hMEM
    obtain ⟨w, hw, hwh⟩ := ht.halted hr
    refine .halted hr ?_
    simp only [ht.not_fetchedOne hw hwh (by decide), Bool.false_eq_true, if_false, hs]
    simp only [Stage.depth] at hc
    omega
  | stalled hs st k hk hkh hm hy =>
    have htotal := hs.total
    refine .draining q e (halt_stays ht he hh hd hq hk hkh hm hy) hh hd hq
      (by rw [hs.running]; rfl) ?_
    simp only [hs.noFetch, Bool.false_eq_true, if_false]
    omega
  | flowed hr hs hdone hm _ _ =>
    obtain ⟨o, ho⟩ := Stage.exists_before hq
    obtain ⟨k, hk, hins⟩ := hm o q e ho (Nat.zero_le _) he hd
    have hkh : k.isHalt = true := Entry.isHalt_iff.mpr (hins.trans (Entry.isHalt_iff.mp hh))
    have hkd : k.done = true := hdone o k hk
    have hdepth := Stage.before_eq_some.mp ho
    refine .draining o k hk hkh hkd ?_ (by rw [hr]; rfl) ?_
    · rintro rfl
      rw [RetiringHaltUndone.of_step h k hk hkh] at hkd
      cases hkd
    · simp only [ht.not_fetchedOne hk hkh (by omega), Bool.false_eq_true, if_false, hs]
      omega

theorem RunCount.step {s t : State} {n : Nat} (hc : RunCount s n) (hi : Orderly s)
    (h : step s = .next t) : RunCount t (n + if fetchedOne s t then 1 else 0) := by
  have hacc := accepts_of_step h
  cases hc with
  | fetching hf _ hc => exact step_fetching hi h hf hc
  | draining q e he hh hd hq _ hc => exact step_draining hi h he hh hd hq hc
  | halted hr _ => rw [hr] at hacc; cases hacc
  | faulted hr => rw [hr] at hacc; cases hacc

theorem Steps.runCount {s t : State} {n : Nat} (run : Steps s t n) (hi : Orderly s)
    (hc : RunCount s 0) : Orderly t ∧ RunCount t n := by
  induction run with
  | start => exact ⟨hi, hc⟩
  | more _ last ih => exact ⟨ih.1.step last, ih.2.step ih.1 last⟩

/-- Settles O47: the count holds at the start and along the run, and gives the claim in HALTED. -/
theorem haltingRunCycles : Obligations.HaltingRunCycles := by
  intro s t n hready hslots hf hcycle hstalls run hhalt
  have hempty : ∀ st, s.slot st = none := fun st => by
    rw [State.slot, hslots]
    cases st <;> rfl
  have hstart : RunCount s 0 := .fetching hf (by rw [hready]; rfl) (by rw [hcycle, hstalls]; rfl)
  cases (run.runCount (.of_empty hempty (by simp [hready])) hstart).2 with
  | fetching _ hr _ => rw [hhalt] at hr; cases hr
  | draining _ _ _ _ _ _ hr _ => rw [hhalt] at hr; cases hr
  | halted _ hc => rw [hc, Stalls.total]; omega
  | faulted hr => rw [hhalt] at hr; cases hr

end Sys2Proof.Machine
end
